-- ==== Sys2Proof/Config.lean ====
section
/-! DEFINITION. The parameters of an implementation (spec/00_scope.md R9 to R12, spec/20_memory.md R60). A machine carries its
parameters in its state, where no step changes them, so that a statement about every state is a statement about every value of
the parameters (spec/92_eei_decisions.md D4). DESIGN CHOICE, log entry 6. -/

namespace Sys2Proof

/-- What a platform or an implementation fixes. -/
structure Params where
  /-- `LEN_W`, the width in bits of the message length (R9). -/
  lenW : Nat
  /-- `MSG_CAP`, the number of bytes of the message memory (R10). -/
  msgCap : Nat
  /-- `REG_BASE`, the platform address of the register window (R60). -/
  regBase : Nat
  /-- `MSG_BASE`, the platform address of the message window (R60). -/
  msgBase : Nat
  /-- `OUT_BASE`, the platform address of the output window (R60). -/
  outBase : Nat
  deriving DecidableEq, Repr

/-- The bounds the spec sets: `1 <= LEN_W <= 61` (R9) and `1 <= MSG_CAP <= 2^LEN_W - 1` (R10). -/
abbrev Params.Valid (p : Params) : Prop :=
  1 ≤ p.lenW ∧ p.lenW ≤ 61 ∧ 1 ≤ p.msgCap ∧ p.msgCap ≤ 2 ^ p.lenW - 1

/-- `MSG_CAP - 1` of the machine that `State.reset` describes: the spec leaves `MSG_CAP` OPEN (R10), so nothing is known of
it but its bounds for the default `LEN_W = 32`. Log entry 6. -/
opaque Config.msgCapPred : Fin 4294967295

/-- `REG_BASE` of the machine that `State.reset` describes: OPEN (R60). Log entry 6. -/
opaque Config.regBase : Nat

/-- `MSG_BASE` of the machine that `State.reset` describes: OPEN (R60). Log entry 6. -/
opaque Config.msgBase : Nat

/-- `OUT_BASE` of the machine that `State.reset` describes: OPEN (R60). Log entry 6. -/
opaque Config.outBase : Nat

/-- The parameters of the machine that `State.reset` describes: `LEN_W` at its default 32 (R9), the OPEN ones uninterpreted. -/
def Config.params : Params where
  lenW := 32
  msgCap := Config.msgCapPred.val + 1
  regBase := Config.regBase
  msgBase := Config.msgBase
  outBase := Config.outBase

end Sys2Proof
end

