-- ==== Sys2Proof/Word.lean ====
section
/-! DEFINITION. The two value types of the engine (spec/00_scope.md R13): a 32-bit word and a byte. Addition, bitwise operators
and shifts are those of `BitVec`, which are the operators of R14, R150 and R152: `+` is the sum modulo 2^32. -/

namespace Sys2Proof

/-- An unsigned 32-bit value (R13). -/
abbrev Word := BitVec 32

/-- An unsigned 8-bit value (R13). -/
abbrev Byte := BitVec 8

end Sys2Proof
end

