-- ==== Sys2Proof/Syntax.lean ====
section
/-! DEFINITION. What reaches the engine: host accesses, commands, engine turns and resets (spec/00_scope.md R19,
spec/30_encoding.md R70, R75, R76), and the one inductive of instructions, a constructor for every row of
spec/opcode_table.json. -/

namespace Sys2Proof

/-- The address spaces a host access can name (spec/20_memory.md R50): `SCR` is not among them. -/
inductive Space where
  | reg
  | msg
  | out
  deriving DecidableEq, Repr

/-- The direction of a host access (R75). -/
inductive Dir where
  | read
  | write
  deriving DecidableEq, Repr

/-- One host bus access as it arrives (R75), with its width in bits (R55), before anything is decided about it. `data` is the
value written; a read does not use it. A byte access uses its low eight bits (log entry 10). -/
structure Access where
  space : Space
  /-- a `REG` offset or a byte address -/
  loc : Nat
  width : Nat
  dir : Dir
  data : Word
  deriving DecidableEq, Repr

/-- What the decoder reads, in the table's three formats: a command word (R70), a bus access (R75), or the `PHASE` code with
the index `t` that selects a round row (R76, R77). -/
inductive Code where
  | cmd (w : Word)
  | bus (a : Access)
  | phase (code : BitVec 4) (t : BitVec 7)
  deriving DecidableEq, Repr

/-- One entry of the schedule (R19): a step of the host in one of its written forms, a turn of the engine, or a reset (R200).
`cmd w` is the write of `w` to `CTRL` written as a command (R70; log entry 5). `platform` is a host access written with its
platform address (R60; log entry 16). -/
inductive Event where
  | cmd (w : Word)
  | bus (a : Access)
  | platform (addr : Nat) (width : Nat) (dir : Dir) (data : Word)
  | engine
  | reset
  deriving DecidableEq, Repr

/-- Why the decoder reads no instruction. -/
inductive Reject where
  /-- a width or an alignment outside R55 -/
  | misalignedOrWide
  /-- a location outside the windows, or a write to `OUT` (R59, R75) -/
  | outOfWindow
  /-- a `PHASE` code no rule writes, or `t` outside the range of `EXPAND` or `ROUND` (R78) -/
  | badPhase
  /-- `PHASE = IDLE`: the engine has no step (R76) -/
  | noMicroStep
  deriving DecidableEq, Repr

/-- The instructions: the rows of spec/opcode_table.json, in the table's order. A command carries its ignored bits 31:4
(R72), so that no bit of its word is lost. -/
inductive Instr where
  -- CMD: a 32-bit word written to CTRL
  | nop (rsvd : BitVec 28)
  | start (rsvd : BitVec 28)
  | rsvdOp2 (rsvd : BitVec 28)
  | rsvdOp3 (rsvd : BitVec 28)
  | rsvdOp4 (rsvd : BitVec 28)
  | rsvdOp5 (rsvd : BitVec 28)
  | rsvdOp6 (rsvd : BitVec 28)
  | rsvdOp7 (rsvd : BitVec 28)
  | rsvdOp8 (rsvd : BitVec 28)
  | rsvdOp9 (rsvd : BitVec 28)
  | rsvdOpA (rsvd : BitVec 28)
  | rsvdOpB (rsvd : BitVec 28)
  | rsvdOpC (rsvd : BitVec 28)
  | rsvdOpD (rsvd : BitVec 28)
  | rsvdOpE (rsvd : BitVec 28)
  | rsvdOpF (rsvd : BitVec 28)
  -- BUS: a host access
  | wrCtrl (v : Word)
  | rdCtrl
  | rdStatus
  | wrStatus (v : Word)
  | wrMsgLenLo (v : Word)
  | rdMsgLenLo
  | wrMsgLenHi (v : Word)
  | rdMsgLenHi
  | rdDigest0
  | wrDigest0 (v : Word)
  | rdDigest1
  | wrDigest1 (v : Word)
  | rdDigest2
  | wrDigest2 (v : Word)
  | rdDigest3
  | wrDigest3 (v : Word)
  | rdDigest4
  | wrDigest4 (v : Word)
  | rdRsvd (off : BitVec 8)
  | wrRsvd (off : BitVec 8) (v : Word)
  | wrMsg (a : Nat) (b : Byte)
  | rdMsg (a : Nat)
  | rdOut (k : Nat)
  -- PHASE: a micro-step of the engine
  | init
  | pad
  | check
  | load
  | expand
  | round0019
  | round2039
  | round4059
  | round6079
  | accum
  | serial
  deriving DecidableEq, Repr

end Sys2Proof
end

