-- ==== Sys2Proof/Machine/State.lean ====
section
/-! DEFINITION. The state of the engine and of the host's side of the bus (spec/10_state.md R20 to R39), the reasons a step can
stop (spec/60_exceptions.md R188), and the state after reset (spec/70_reset_and_hazards.md R200). Plain data throughout. -/

namespace Sys2Proof.Machine

/-- The message memory `MSG` (R35): the written bytes, in strictly rising address order. A listed address is a byte whose
written mark is set; an unlisted one is a byte nothing has written, which holds no value the model may use (log entry 8). -/
abbrev Memory := List Host.Cell

/-- The canonical form: addresses strictly rising. Every listed byte differs from an unlisted one, which has no value. -/
abbrev Memory.wf (m : Memory) : Prop := m.Pairwise (fun x y => x.1 < y.1)

/-- The five working registers `A` to `E` (R27). -/
structure Working where
  a : Word
  b : Word
  c : Word
  d : Word
  e : Word
  deriving DecidableEq, Repr

/-- The padding plan `F`, `T`, `P` (R32). -/
structure Plan where
  f : Nat
  t : BitVec 6
  p : BitVec 8
  deriving DecidableEq, Repr

/-- The space a block is read from (R33). -/
inductive Source where
  | msg
  | scr
  deriving DecidableEq, Repr

/-- `SRC` and `OFF`: the block the next `LOAD` reads (R33). `OFF` is a number, so that the 64 of R115 is held at `LEN_W = 6` too
(DESIGN CHOICE, log entry 21). -/
structure Block where
  src : Source
  off : Nat
  deriving DecidableEq, Repr

/-- The written marks of the internal items that are unspecified at reset (the preamble of spec/10_state.md, R188, R200). The
items of one mark are always written together; each schedule word has a mark of its own (log entry 9). -/
structure Marks where
  /-- `H[0..4]` -/
  h : Bool
  /-- `A` to `E` -/
  regs : Bool
  /-- `F`, `T`, `P` -/
  plan : Bool
  /-- `SRC`, `OFF` -/
  block : Bool
  /-- `SCR[0..127]` -/
  scr : Bool
  /-- `W[0..79]`, word by word -/
  w : Vector Bool 80
  deriving DecidableEq, Repr

/-- The data the last read access returned to the host (R75): a 32-bit register, a byte, or nothing yet. The model's own
field, log entry 4. -/
inductive Returned where
  | nothing
  | word (v : Word)
  | byte (v : Byte)
  deriving DecidableEq, Repr

/-- Everything the spec gives the machine, with the schedule and the host's read data (INVENTORY.md, State). -/
structure State where
  /-- the parameters of the implementation, which no step changes -/
  params : Params
  /-- `STATUS.DONE` (R21) -/
  done : Bool
  /-- `STATUS.VALID` (R21) -/
  valid : Bool
  /-- `STATUS.ERR` (R21, R180) -/
  err : BitVec 4
  /-- `MSG_LEN`, below `2^LEN_W` (R23; log entry 18) -/
  msgLen : Nat
  /-- `DIGEST0` to `DIGEST4` (R24) -/
  digest : Vector Word 5
  /-- the accumulator `H` (R26) -/
  h : Vector Word 5
  /-- the working registers (R27) -/
  regs : Working
  /-- the message schedule `W` (R28) -/
  w : Vector Word 80
  /-- the index `t` (R29) -/
  t : BitVec 7
  /-- `PHASE`, in the codes of R76 (R30) -/
  phase : BitVec 4
  /-- the latched length `L`, below `2^LEN_W` (R31; log entry 18) -/
  len : Nat
  /-- the padding plan (R32) -/
  plan : Plan
  /-- the selected block (R33) -/
  block : Block
  /-- the scratch region `SCR` (R34) -/
  scr : Vector Byte 128
  /-- the written marks of the internal items (R188, R200) -/
  marks : Marks
  /-- the message memory `MSG` with its written marks (R35) -/
  mem : Memory
  /-- the data of the last read access (log entry 4) -/
  returned : Returned
  /-- the schedule: the events that come next, in order (R19; log entry 1) -/
  inbox : List Event
  deriving DecidableEq, Repr

/-- Why the machine stops with a fault (R188). -/
inductive Fault where
  /-- Raised by `RD_MSG`, `PAD` and `LOAD` on a `MSG` byte nothing has written (R188 UNWRITTEN_MSG_READ). Safe: the hardware
  returns some byte. -/
  | unwrittenMsgRead
  /-- Raised by a micro-step that reads an internal item unwritten since reset (R188 UNWRITTEN_INTERNAL_READ; the
  preamble of spec/10_state.md, spec/93_implementation_defined.md U2). Safe: no run from reset reaches it (R39). -/
  | unwrittenInternalRead
  /-- Raised for a `PHASE` code no rule writes, and for `EXPAND` or a `ROUND` row with `t` outside its range (R78, R188
  BAD_PHASE). Safe: no run from reset reaches it. -/
  | badPhase
  /-- Raised by `LOAD` and `ACCUM` for a block selection that R115 says does not occur: past the end of `SCR`, or past `F`.
  The model's own name (log entry 13). Safe: no run from reset reaches it. -/
  | badBlock
  deriving DecidableEq, Repr

/-- Why the machine gives an access no meaning (R188). -/
inductive Refusal where
  /-- An instruction without a meaning in this model: raised by `exec` only. Safe. -/
  | notModelled (mnemonic : String)
  /-- Raised by the fetch for a host access of a width or an alignment outside R55 (R188 MISALIGNED_OR_WIDE). Safe. -/
  | misalignedOrWide
  /-- Raised by the fetch, and by `WR_MSG`, `RD_MSG` and `RD_OUT`, for a location outside the windows, and by the fetch for a
  write to `OUT` (R59, R188 OUT_OF_WINDOW). Also raised by the platform for an engine it does not have. Safe. -/
  | outOfWindow
  deriving DecidableEq, Repr

/-- What an instruction answers. -/
abbrev Result := Host.Outcome State Fault Refusal

/-- The state after reset (R200): idle, `STATUS = 0`, `MSG_LEN = 0`, `DIGEST0..4 = 0`, `t = 0`, `L = 0`, every other item
unwritten, nothing in `MSG`. The values of the unwritten items are the model's (log entry 7); the schedule is empty. -/
def State.reset : State where
  params := Config.params
  done := false
  valid := false
  err := 0#4
  msgLen := 0
  digest := Vector.replicate 5 0#32
  h := Vector.replicate 5 0#32
  regs := ⟨0#32, 0#32, 0#32, 0#32, 0#32⟩
  w := Vector.replicate 80 0#32
  t := 0#7
  phase := 0x0#4
  len := 0
  plan := ⟨0, 0#6, 64#8⟩
  block := ⟨.scr, 0⟩
  scr := Vector.replicate 128 0#8
  marks := ⟨false, false, false, false, false, Vector.replicate 80 false⟩
  mem := []
  returned := .nothing
  inbox := []

end Sys2Proof.Machine
end

