-- ==== Sys2Proof/Machine/Operands.lean ====
section
/-! DEFINITION. Operands and the values computed from them: byte order (spec/20_memory.md R51, R52), reads and writes of the
message memory (spec/10_state.md R35), the views `MSG_LEN_LO`, `MSG_LEN_HI` and `OUT` (R23, R25), the padding plan and the padded
region (spec/42_padding.md R130 to R136), block selection (spec/41_digest_sequencer.md R114, R115), and the word functions of the
compression transform (spec/43_compression.md R150 to R157). -/

namespace Sys2Proof.Machine

/-! ### Phase codes (R76) -/

/-- `IDLE`: the engine has no step. -/
abbrev Phase.idle : BitVec 4 := 0x0#4
/-- `INIT` -/
abbrev Phase.init : BitVec 4 := 0x1#4
/-- `PAD` -/
abbrev Phase.pad : BitVec 4 := 0x2#4
/-- `CHECK` -/
abbrev Phase.check : BitVec 4 := 0x3#4
/-- `LOAD` -/
abbrev Phase.load : BitVec 4 := 0x4#4
/-- `EXPAND` -/
abbrev Phase.expand : BitVec 4 := 0x5#4
/-- `ROUND` -/
abbrev Phase.round : BitVec 4 := 0x6#4
/-- `ACCUM` -/
abbrev Phase.accum : BitVec 4 := 0x7#4
/-- `SERIAL` -/
abbrev Phase.serial : BitVec 4 := 0x8#4

/-! ### Byte order -/

/-- A word from four bytes, most significant first (R51). -/
def be32 (b0 b1 b2 b3 : Byte) : Word :=
  (b0.setWidth 32 <<< 24) ||| (b1.setWidth 32 <<< 16) ||| (b2.setWidth 32 <<< 8) ||| b3.setWidth 32

/-- The `n` bytes of a value, most significant first (R52): byte `k` is `(v >> 8*(n-1-k)) and 0xFF`. -/
def bytesBe {wd : Nat} (v : BitVec wd) (n : Nat) : List Byte :=
  (List.range n).map fun k => (v >>> (8 * (n - 1 - k))).setWidth 8

/-! ### The message memory -/

/-- The byte of `MSG` at an address, if it has been written (R35). -/
def Memory.read (m : Memory) (a : Nat) : Option Byte :=
  match m with
  | [] => none
  | (k, b) :: rest => if k = a then some b else Memory.read rest a

/-- Write one byte of `MSG` and mark it written (R99), keeping the addresses in rising order. -/
def Memory.write (m : Memory) (a : Nat) (b : Byte) : Memory :=
  match m with
  | [] => [(a, b)]
  | (k, c) :: rest =>
    if a < k then (a, b) :: (k, c) :: rest
    else if a = k then (a, b) :: rest
    else (k, c) :: Memory.write rest a b

/-- The `n` bytes of `MSG` from address `a` on, if every one has been written. -/
def Memory.readBytes (m : Memory) (a : Nat) : Nat → Option (List Byte)
  | 0 => some []
  | n + 1 =>
    match m.read a, Memory.readBytes m (a + 1) n with
    | some b, some bs => some (b :: bs)
    | _, _ => none

/-! ### The length register on the bus -/

/-- What a read of `MSG_LEN_LO` returns: `MSG_LEN[min(31, LEN_W-1):0]`, zero-extended (R23, R96). -/
def lenLo (p : Params) (n : Nat) : Word := BitVec.ofNat 32 (n % 2 ^ min 32 p.lenW)

/-- What a read of `MSG_LEN_HI` returns: `MSG_LEN[LEN_W-1:32]`, zero-extended, or 0 when `LEN_W <= 32` (R23, R96). -/
def lenHi (p : Params) (n : Nat) : Word :=
  if 32 < p.lenW then BitVec.ofNat 32 (n / 2 ^ 32 % 2 ^ (p.lenW - 32)) else 0#32

/-- `MSG_LEN` after a write of `v` to `MSG_LEN_LO` (R94). -/
def withLenLo (p : Params) (n : Nat) (v : Word) : Nat :=
  if 32 ≤ p.lenW then n / 2 ^ 32 * 2 ^ 32 + v.toNat else v.toNat % 2 ^ p.lenW

/-- `MSG_LEN` after a write of `v` to `MSG_LEN_HI` (R95). -/
def withLenHi (p : Params) (n : Nat) (v : Word) : Nat :=
  if 32 < p.lenW then v.toNat % 2 ^ (p.lenW - 32) * 2 ^ 32 + n % 2 ^ 32 else n

/-! ### The output view -/

/-- `OUT[k]`: byte `k mod 4` of `DIGEST(k div 4)`, most significant first (R25, R101). -/
def outByte (digest : Vector Word 5) (k : Nat) : Byte :=
  ((digest[k / 4]?).getD 0#32).extractLsb' (24 - 8 * (k % 4)) 8

/-! ### The padding plan and the padded region -/

/-- `F`, the end of the full blocks (R130). -/
def fullEnd (len : Nat) : Nat := len / 64 * 64

/-- `T`, the length of the tail (R130). -/
def tailLen (len : Nat) : Nat := len - fullEnd len

/-- `P`, the size of the padded region (R131). -/
def paddedSize (len : Nat) : Nat := if tailLen len ≤ 55 then 64 else 128

/-- The plan `PAD` writes (R133). -/
def planOf (len : Nat) : Plan where
  f := fullEnd len
  t := BitVec.ofNat 6 (tailLen len)
  p := BitVec.ofNat 8 (paddedSize len)

/-- `BL`, the bit length of the whole message, as a 64-bit value (R132). -/
def bitLength (len : Nat) : BitVec 64 := BitVec.ofNat 64 (8 * len)

/-- Byte `i` of the scratch region `PAD` builds from the tail bytes (R133 to R135). -/
def scratchByte (len : Nat) (tail : List Byte) (i : Nat) : Byte :=
  if i < tailLen len then tail.getD i 0#8
  else if i = tailLen len then 0x80#8
  else if i < paddedSize len - 8 then 0x00#8
  else if i < paddedSize len then (bytesBe (bitLength len) 8).getD (i - (paddedSize len - 8)) 0#8
  else 0x00#8

/-- The scratch region `PAD` builds (R133). -/
def scratchOf (len : Nat) (tail : List Byte) : Vector Byte 128 :=
  Vector.ofFn fun i => scratchByte len tail i.val

/-- The consistency predicate of `CHECK` (R136), over the numbers `L`, `F`, `T`, `P`. -/
abbrev Consistent (l f t p : Nat) : Prop :=
  f % 64 = 0 ∧ f + t = l ∧ t ≤ 63 ∧ (p = 64 ∨ p = 128) ∧ t + 1 + 8 ≤ p ∧ p - (t + 1 + 8) ≤ 63 ∧ (f + p) % 64 = 0

/-! ### Block selection -/

/-- The first block of an operation (R114). -/
def firstBlock (f : Nat) : Block := if 0 < f then ⟨.msg, 0⟩ else ⟨.scr, 0⟩

/-- What comes after a block: another block, or the end of the operation. -/
inductive After where
  | block (b : Block)
  | finished
  deriving DecidableEq, Repr

/-- The block after `(SRC, OFF)` (R115); `none` for an argument R115 says does not occur (log entry 13). DESIGN CHOICE, log entry 21: at
`LEN_W = 6` the second block of `SCR` is at `OFF = 64` as R115 writes it, which the 6 bits R33 gives `OFF` could not hold. -/
def nextBlock (pl : Plan) (b : Block) : Option After :=
  match b.src with
  | .msg =>
    if b.off + 64 < pl.f then some (.block ⟨.msg, b.off + 64⟩)
    else if b.off + 64 = pl.f then some (.block ⟨.scr, 0⟩)
    else none
  | .scr =>
    if b.off = 0 then
      if pl.p = 128#8 then some (.block ⟨.scr, 64⟩)
      else if pl.p = 64#8 then some .finished
      else none
    else if b.off = 64 then some .finished
    else none

/-! ### Words of the compression transform -/

/-- Left rotation by `n`, for `1 <= n <= 31` (R151). -/
def rotl (x : Word) (n : Nat) : Word := (x <<< n) ||| (x >>> (32 - n))

/-- The round function of rounds 0 to 19 (R153). -/
def fChoose (b c d : Word) : Word := d ^^^ (b &&& (c ^^^ d))

/-- The round function of rounds 20 to 39 and of rounds 60 to 79 (R154, R156). -/
def fParity (b c d : Word) : Word := b ^^^ c ^^^ d

/-- The round function of rounds 40 to 59, with an addition (R155; spec/90_conflicts.md C3). -/
def fMajority (b c d : Word) : Word := (b &&& c) + (d &&& (b ^^^ c))

/-- The round constant of rounds 0 to 19 (R157). -/
abbrev k0019 : Word := 0x5A827999#32
/-- The round constant of rounds 20 to 39 (R157). -/
abbrev k2039 : Word := 0x6ED9EBA1#32
/-- The round constant of rounds 40 to 59 (R157). -/
abbrev k4059 : Word := 0x8F1BBCDC#32
/-- The round constant of rounds 60 to 79 (R157). -/
abbrev k6079 : Word := 0xCA62C1D6#32

/-- The initial accumulator (R112). -/
def initialH : Vector Word 5 :=
  #v[0x67452301#32, 0xEFCDAB89#32, 0x98BADCFE#32, 0x10325476#32, 0xC3D2E1F0#32]

/-- Word `j` of a block of bytes (R51, R158). -/
def blockWord (bytes : List Byte) (j : Nat) : Word :=
  be32 (bytes.getD (4 * j) 0#8) (bytes.getD (4 * j + 1) 0#8) (bytes.getD (4 * j + 2) 0#8) (bytes.getD (4 * j + 3) 0#8)

/-- The schedule after `LOAD`: words 0 to 15 from the block, the others as they were (R158). -/
def loadWords (w : Vector Word 80) (bytes : List Byte) : Vector Word 80 :=
  Vector.ofFn fun j => if j.val < 16 then blockWord bytes j.val else w[j]

/-- Word `t` of the schedule, or 0 past its end (an index the callers rule out). -/
def wordAt (w : Vector Word 80) (t : Nat) : Word := (w[t]?).getD 0#32

/-- The schedule word `EXPAND` computes for index `t` (R159). -/
def expandedWord (w : Vector Word 80) (t : Nat) : Word :=
  rotl (wordAt w (t - 3) ^^^ wordAt w (t - 8) ^^^ wordAt w (t - 14) ^^^ wordAt w (t - 16)) 1

/-- One round, as the simultaneous assignment of R160 and R163. `f` is the value of the round function at `B`, `C`, `D`, `k` the
round constant and `wt` the schedule word. -/
def roundOf (r : Working) (f k wt : Word) : Working where
  a := rotl r.a 5 + f + r.e + k + wt
  b := r.a
  c := rotl r.b 30
  d := r.c
  e := r.d

/-- The accumulator and the working registers added word by word (R161). -/
def addWorking (h : Vector Word 5) (r : Working) : Vector Word 5 :=
  #v[h[0] + r.a, h[1] + r.b, h[2] + r.c, h[3] + r.d, h[4] + r.e]

/-- The working registers seeded from the accumulator (R158). -/
def seedWorking (h : Vector Word 5) : Working := ⟨h[0], h[1], h[2], h[3], h[4]⟩

end Sys2Proof.Machine
end

