-- ==== Sys2Proof/Machine/Flags.lean ====
section
/-! DEFINITION. The status bits. The engine has no arithmetic flags (spec/10_state.md R38); its only status bits are the fields of
`STATUS` (R21), whose word, and the values it may take (R22), stand here, with the error codes of spec/60_exceptions.md R180. -/

namespace Sys2Proof.Machine

/-- The hardware errors (R180). -/
inductive HwError where
  | paddingConsistency
  | lengthRange
  | illegalCommand
  deriving DecidableEq, Repr

/-- The code of an error in `STATUS.ERR` (R180). -/
def errorCode : HwError → BitVec 4
  | .paddingConsistency => 1#4
  | .lengthRange => 2#4
  | .illegalCommand => 3#4

/-- `STATUS.BUSY`: `PHASE` is not `IDLE` (R21). -/
def State.busy (s : State) : Bool := decide (s.phase ≠ Phase.idle)

/-- One bit as a word. -/
def bitWord (b : Bool) : Word := if b then 1#32 else 0#32

/-- The word a read of `STATUS` returns (R21, R97). -/
def State.statusWord (s : State) : Word :=
  (s.err.setWidth 32 <<< 4) ||| (bitWord s.valid <<< 2) ||| (bitWord s.done <<< 1) ||| bitWord s.busy

/-- The implications R22 gives, with the one its list of six values adds to them: `DONE = 1` comes with a digest or an error. -/
abbrev State.statusLegal (s : State) : Prop :=
  (s.phase ≠ Phase.idle → s.done = false ∧ s.valid = false ∧ s.err = 0#4) ∧
  (s.valid = true → s.done = true ∧ s.err = 0#4) ∧
  (s.err ≠ 0#4 → s.done = true ∧ s.valid = false) ∧
  (s.done = true → s.valid = true ∨ s.err ≠ 0#4) ∧
  s.err.toNat < 4

end Sys2Proof.Machine
end

