-- ==== Sys2Proof/Machine/Ops.lean ====
section
/-! DEFINITION. The named operations over the state: what a read returns to the host, ending an operation with an error
(spec/60_exceptions.md R184, the engine's form of taking an exception), accepting a command, reset (spec/70_reset_and_hazards.md
R200), and the writes of the micro-steps. There is no return from an error (R185): the status stays until a later command or
reset replaces it. -/

namespace Sys2Proof.Machine

/-- Replace the schedule. -/
def State.setInbox (s : State) (es : List Event) : State := { s with inbox := es }

/-- Return data to the host: the only effect of a read (R57). -/
def State.giveBack (s : State) (r : Returned) : State := { s with returned := r }

/-- Write `MSG_LEN`. -/
def State.setMsgLen (s : State) (n : Nat) : State := { s with msgLen := n }

/-- Write one byte of `MSG`. -/
def State.setMsgByte (s : State) (a : Nat) (b : Byte) : State := { s with mem := s.mem.write a b }

/-- Five zero words. -/
def zeroDigest : Vector Word 5 := Vector.replicate 5 0#32

/-- `raise E`: end the operation with an error (R184). Nothing else changes. -/
def State.raise (s : State) (e : HwError) : State :=
  { s with digest := zeroDigest, done := true, valid := false, err := errorCode e, phase := Phase.idle }

/-- The effect of an accepted `START` (R91). -/
def State.accept (s : State) : State :=
  { s with
    digest := zeroDigest, len := s.msgLen, done := false, valid := false, err := 0#4, phase := Phase.init }

/-- Reset (R200): every item that has a reset value takes it, every other becomes unwritten, every mark of `MSG` is cleared. The
parameters, the schedule and the host's read data are not the engine's to reset (log entry 15). -/
def State.resetEngine (s : State) : State :=
  { State.reset with params := s.params, inbox := s.inbox, returned := s.returned }

/-- The writes of `INIT` (R111). -/
def State.startAccumulator (s : State) : State :=
  { s with h := initialH, marks := { s.marks with h := true }, phase := Phase.pad }

/-- The writes of `PAD` (R133). -/
def State.writePadding (s : State) (tail : List Byte) : State :=
  { s with
    plan := planOf s.len, scr := scratchOf s.len tail,
    marks := { s.marks with plan := true, scr := true }, phase := Phase.check }

/-- The writes of `CHECK` when the plan is consistent (R137). -/
def State.selectFirst (s : State) : State :=
  { s with block := firstBlock s.plan.f, marks := { s.marks with block := true }, phase := Phase.load }

/-- The writes of `LOAD` (R158). -/
def State.seedBlock (s : State) (bytes : List Byte) : State :=
  { s with
    w := loadWords s.w bytes, regs := seedWorking s.h, t := 16#7,
    marks := { s.marks with regs := true, w := Vector.ofFn fun j => decide (j.val < 16) || s.marks.w[j] },
    phase := Phase.expand }

/-- The writes of `EXPAND` at index `t` (R159). -/
def State.expandAt (s : State) (t : Nat) (ht : t < 80) : State :=
  { s with
    w := s.w.set t (expandedWord s.w t), marks := { s.marks with w := s.marks.w.set t true },
    t := if t = 79 then 0#7 else s.t + 1#7, phase := if t = 79 then Phase.round else s.phase }

/-- The writes of a `ROUND` (R160), given the value of its round function and its constant. -/
def State.applyRound (s : State) (f k : Word) : State :=
  { s with
    regs := roundOf s.regs f k (wordAt s.w s.t.toNat), t := s.t + 1#7,
    phase := if s.t.toNat = 79 then Phase.accum else s.phase }

/-- The writes of `ACCUM` (R161), given what comes after the block. -/
def State.accumulate (s : State) (next : After) : State :=
  match next with
  | .finished => { s with h := addWorking s.h s.regs, phase := Phase.serial }
  | .block b => { s with h := addWorking s.h s.regs, block := b, phase := Phase.load }

/-- The writes of `SERIAL` (R116). -/
def State.publish (s : State) : State :=
  { s with digest := s.h, done := true, valid := true, err := 0#4, phase := Phase.idle }

/-- Whether word `t` of the schedule has been written. -/
def State.wordWritten (s : State) (t : Nat) : Bool := (s.marks.w[t]?).getD false

/-- Continue if the internal items a micro-step reads have been written, else fault: the spec's own ruling for an item that is
unspecified at reset (R188, the preamble of spec/10_state.md, spec/93_implementation_defined.md U2). -/
def whenWritten (written : Bool) (r : Result) : Result :=
  if written then r else .fault .unwrittenInternalRead

/-- A host access that stores only while the engine is idle (R94, R95, R99): the write is dropped while it is busy. -/
def whenIdle (s t : State) : Result := if s.busy then .next s else .next t

/-- The 64 bytes the next `LOAD` reads (R158): from `MSG` in place, or from `SCR`. For a block beyond the end of an `SCR` that is also
unwritten, the bound is looked at before the mark of `SCR` (DESIGN CHOICE, log entry 14; no run reaches such a block). -/
def readBlock (s : State) : Except Fault (List Byte) :=
  match s.block.src with
  | .msg =>
    match s.mem.readBytes s.block.off 64 with
    | some bs => .ok bs
    | none => .error .unwrittenMsgRead
  | .scr =>
    if s.block.off + 64 ≤ 128 then
      if s.marks.scr then .ok ((s.scr.toList.drop s.block.off).take 64) else .error .unwrittenInternalRead
    else .error .badBlock

end Sys2Proof.Machine
end

