-- ==== Sys2Proof/Machine/Bytes.lean ====
section
/-! DEFINITION. The byte family: host accesses to `MSG` and `OUT` (spec/40_host_interface.md R99 to R101, spec/20_memory.md R59). -/

namespace Sys2Proof.Machine

/-- Return a byte to the host; nothing else changes (R57). -/
def answerByte (b : Byte) (s : State) : Result := .next (s.giveBack (.byte b))

/-- `WR_MSG` (R99): stored and marked when idle, dropped while busy; outside the window it is refused (R59). -/
def execWrMsg (a : Nat) (b : Byte) (s : State) : Result :=
  if a < s.params.msgCap then whenIdle s (s.setMsgByte a b) else .refused .outOfWindow

/-- `RD_MSG` (R100): a byte nothing has written faults; outside the window it is refused (R59). -/
def execRdMsg (a : Nat) (s : State) : Result :=
  if a < s.params.msgCap then
    match s.mem.read a with
    | some b => answerByte b s
    | none => .fault .unwrittenMsgRead
  else .refused .outOfWindow

/-- `RD_OUT` (R101); outside the window it is refused (R59). -/
def execRdOut (k : Nat) (s : State) : Result :=
  if k < 20 then answerByte (outByte s.digest k) s else .refused .outOfWindow

end Sys2Proof.Machine
end

