-- ==== Sys2Proof/Machine/Commands.lean ====
section
/-! DEFINITION. The command family: the 32-bit words written to `CTRL` (spec/40_host_interface.md R90 to R93, with the order of
checks of spec/60_exceptions.md R186). -/

namespace Sys2Proof.Machine

/-- `START` (R91, R182): ignored while busy (R93); a length above `MSG_CAP` ends at once with `LENGTH_RANGE`. -/
def startCommand (s : State) : Result :=
  if s.busy then .next s
  else if s.params.msgCap < s.msgLen then .next (s.raise .lengthRange)
  else .next s.accept

/-- A reserved command (R92, R183): ignored while busy (R93). -/
def reservedCommand (s : State) : Result :=
  if s.busy then .next s else .next (s.raise .illegalCommand)

/-- The command a word written to `CTRL` performs, by its `OP` field alone (R71, R72). -/
def performCommand (v : Word) (s : State) : Result :=
  if v.extractLsb' 0 4 = 0x0#4 then .next s
  else if v.extractLsb' 0 4 = 0x1#4 then startCommand s
  else reservedCommand s

/-- `NOP` (R90). -/
def execNop (_rsvd : BitVec 28) (s : State) : Result := .next s
/-- `START` (R91, R93). -/
def execStart (_rsvd : BitVec 28) (s : State) : Result := startCommand s
/-- `RSVD_OP_2` (R92, R93). -/
def execRsvdOp2 (_rsvd : BitVec 28) (s : State) : Result := reservedCommand s
/-- `RSVD_OP_3` (R92, R93). -/
def execRsvdOp3 (_rsvd : BitVec 28) (s : State) : Result := reservedCommand s
/-- `RSVD_OP_4` (R92, R93). -/
def execRsvdOp4 (_rsvd : BitVec 28) (s : State) : Result := reservedCommand s
/-- `RSVD_OP_5` (R92, R93). -/
def execRsvdOp5 (_rsvd : BitVec 28) (s : State) : Result := reservedCommand s
/-- `RSVD_OP_6` (R92, R93). -/
def execRsvdOp6 (_rsvd : BitVec 28) (s : State) : Result := reservedCommand s
/-- `RSVD_OP_7` (R92, R93). -/
def execRsvdOp7 (_rsvd : BitVec 28) (s : State) : Result := reservedCommand s
/-- `RSVD_OP_8` (R92, R93). -/
def execRsvdOp8 (_rsvd : BitVec 28) (s : State) : Result := reservedCommand s
/-- `RSVD_OP_9` (R92, R93). -/
def execRsvdOp9 (_rsvd : BitVec 28) (s : State) : Result := reservedCommand s
/-- `RSVD_OP_A` (R92, R93). -/
def execRsvdOpA (_rsvd : BitVec 28) (s : State) : Result := reservedCommand s
/-- `RSVD_OP_B` (R92, R93). -/
def execRsvdOpB (_rsvd : BitVec 28) (s : State) : Result := reservedCommand s
/-- `RSVD_OP_C` (R92, R93). -/
def execRsvdOpC (_rsvd : BitVec 28) (s : State) : Result := reservedCommand s
/-- `RSVD_OP_D` (R92, R93). -/
def execRsvdOpD (_rsvd : BitVec 28) (s : State) : Result := reservedCommand s
/-- `RSVD_OP_E` (R92, R93). -/
def execRsvdOpE (_rsvd : BitVec 28) (s : State) : Result := reservedCommand s
/-- `RSVD_OP_F` (R92, R93). -/
def execRsvdOpF (_rsvd : BitVec 28) (s : State) : Result := reservedCommand s
/-- `WR_CTRL`: the command its value holds (R20, R70). -/
def execWrCtrl (v : Word) (s : State) : Result := performCommand v s

end Sys2Proof.Machine
end

