-- ==== Sys2Proof/Machine/Compression.lean ====
section
/-! DEFINITION. The compression family: `LOAD`, `EXPAND`, the four `ROUND` rows and `ACCUM` (spec/43_compression.md R158 to R161). -/

namespace Sys2Proof.Machine

/-- `LOAD` (R158). -/
def execLoad (s : State) : Result :=
  whenWritten (s.marks.block && s.marks.h)
    (match readBlock s with
     | .ok bytes => .next (s.seedBlock bytes)
     | .error f => .fault f)

/-- `EXPAND` (R159): `t` outside `16..79` is a bad phase (R78). -/
def execExpand (s : State) : Result :=
  if h : 16 ≤ s.t.toNat ∧ s.t.toNat < 80 then
    whenWritten
      (s.wordWritten (s.t.toNat - 3) && s.wordWritten (s.t.toNat - 8) && s.wordWritten (s.t.toNat - 14)
        && s.wordWritten (s.t.toNat - 16))
      (.next (s.expandAt s.t.toNat h.2))
  else .fault .badPhase

/-- A round of the row for `lo <= t <= hi` (R160, R157): `t` outside the row is a bad phase (R78; log entry 14). -/
def roundRow (lo hi : Nat) (f : Word → Word → Word → Word) (k : Word) (s : State) : Result :=
  if lo ≤ s.t.toNat ∧ s.t.toNat ≤ hi then
    whenWritten (s.marks.regs && s.wordWritten s.t.toNat)
      (.next (s.applyRound (f s.regs.b s.regs.c s.regs.d) k))
  else .fault .badPhase

/-- `ROUND_00_19` (R160, R153). -/
def execRound0019 (s : State) : Result := roundRow 0 19 fChoose k0019 s
/-- `ROUND_20_39` (R160, R154). -/
def execRound2039 (s : State) : Result := roundRow 20 39 fParity k2039 s
/-- `ROUND_40_59` (R160, R155). -/
def execRound4059 (s : State) : Result := roundRow 40 59 fMajority k4059 s
/-- `ROUND_60_79` (R160, R156). -/
def execRound6079 (s : State) : Result := roundRow 60 79 fParity k6079 s

/-- `ACCUM` (R161): a block selection R115 says does not occur faults (log entry 13). -/
def execAccum (s : State) : Result :=
  whenWritten (s.marks.h && s.marks.regs && s.marks.block && s.marks.plan)
    (match nextBlock s.plan s.block with
     | some next => .next (s.accumulate next)
     | none => .fault .badBlock)

end Sys2Proof.Machine
end

