-- ==== Sys2Proof/Machine/Registers.lean ====
section
/-! DEFINITION. The register family: host accesses to the `REG` space (spec/40_host_interface.md R94 to R98 and R102,
spec/20_memory.md R58 and R59). -/

namespace Sys2Proof.Machine

/-- Return a 32-bit value to the host; nothing else changes (R57). -/
def answerWord (v : Word) (s : State) : Result := .next (s.giveBack (.word v))

/-- A write the engine ignores (R102, R59). -/
def ignoredWrite (s : State) : Result := .next s

/-- `RD_CTRL`: `CTRL` reads 0 (R20, R102). -/
def execRdCtrl (s : State) : Result := answerWord 0x00000000#32 s
/-- `RD_STATUS` (R97). -/
def execRdStatus (s : State) : Result := answerWord s.statusWord s
/-- `WR_STATUS` is ignored (R102). -/
def execWrStatus (_v : Word) (s : State) : Result := ignoredWrite s
/-- `WR_MSG_LEN_LO` (R94). -/
def execWrMsgLenLo (v : Word) (s : State) : Result := whenIdle s (s.setMsgLen (withLenLo s.params s.msgLen v))
/-- `RD_MSG_LEN_LO` (R96). -/
def execRdMsgLenLo (s : State) : Result := answerWord (lenLo s.params s.msgLen) s
/-- `WR_MSG_LEN_HI` (R95). -/
def execWrMsgLenHi (v : Word) (s : State) : Result := whenIdle s (s.setMsgLen (withLenHi s.params s.msgLen v))
/-- `RD_MSG_LEN_HI` (R96). -/
def execRdMsgLenHi (s : State) : Result := answerWord (lenHi s.params s.msgLen) s
/-- `RD_DIGEST0` (R98). -/
def execRdDigest0 (s : State) : Result := answerWord s.digest[0] s
/-- `WR_DIGEST0` is ignored (R102). -/
def execWrDigest0 (_v : Word) (s : State) : Result := ignoredWrite s
/-- `RD_DIGEST1` (R98). -/
def execRdDigest1 (s : State) : Result := answerWord s.digest[1] s
/-- `WR_DIGEST1` is ignored (R102). -/
def execWrDigest1 (_v : Word) (s : State) : Result := ignoredWrite s
/-- `RD_DIGEST2` (R98). -/
def execRdDigest2 (s : State) : Result := answerWord s.digest[2] s
/-- `WR_DIGEST2` is ignored (R102). -/
def execWrDigest2 (_v : Word) (s : State) : Result := ignoredWrite s
/-- `RD_DIGEST3` (R98). -/
def execRdDigest3 (s : State) : Result := answerWord s.digest[3] s
/-- `WR_DIGEST3` is ignored (R102). -/
def execWrDigest3 (_v : Word) (s : State) : Result := ignoredWrite s
/-- `RD_DIGEST4` (R98). -/
def execRdDigest4 (s : State) : Result := answerWord s.digest[4] s
/-- `WR_DIGEST4` is ignored (R102). -/
def execWrDigest4 (_v : Word) (s : State) : Result := ignoredWrite s
/-- `RD_RSVD`: a reserved offset reads 0 (R59). -/
def execRdRsvd (_off : BitVec 8) (s : State) : Result := answerWord 0x00000000#32 s
/-- `WR_RSVD`: a write to a reserved offset is ignored (R59). -/
def execWrRsvd (_off : BitVec 8) (_v : Word) (s : State) : Result := ignoredWrite s

end Sys2Proof.Machine
end

