-- ==== Sys2Proof/Machine/Sequencer.lean ====
section
/-! DEFINITION. The sequencer family: `INIT` and `SERIAL` (spec/41_digest_sequencer.md R111, R116), `PAD` and `CHECK`
(spec/42_padding.md R133, R137). -/

namespace Sys2Proof.Machine

/-- `INIT` (R111). -/
def execInit (s : State) : Result := .next s.startAccumulator

/-- `PAD` (R133): a tail byte nothing has written faults (R188). -/
def execPad (s : State) : Result :=
  match s.mem.readBytes (fullEnd s.len) (tailLen s.len) with
  | some tail => .next (s.writePadding tail)
  | none => .fault .unwrittenMsgRead

/-- `CHECK` (R137): an inconsistent plan ends the operation with `PADDING_CONSISTENCY` (R181). -/
def execCheck (s : State) : Result :=
  whenWritten s.marks.plan
    (if Consistent s.len s.plan.f s.plan.t.toNat s.plan.p.toNat then .next s.selectFirst
     else .next (s.raise .paddingConsistency))

/-- `SERIAL` (R116). -/
def execSerial (s : State) : Result := whenWritten s.marks.h (.next s.publish)

end Sys2Proof.Machine
end

