-- ==== Sys2Proof/Machine/Dispatch.lean ====
section
/-! DEFINITION. One arm per instruction: a call of its meaning. -/

namespace Sys2Proof.Machine

def exec (i : Instr) (s : State) : Host.Outcome State Fault Refusal :=
  match i with
  -- CMD rows
  | .nop rsvd => Sys2Proof.Machine.execNop rsvd s
  | .start rsvd => Sys2Proof.Machine.execStart rsvd s
  | .rsvdOp2 rsvd => Sys2Proof.Machine.execRsvdOp2 rsvd s
  | .rsvdOp3 rsvd => Sys2Proof.Machine.execRsvdOp3 rsvd s
  | .rsvdOp4 rsvd => Sys2Proof.Machine.execRsvdOp4 rsvd s
  | .rsvdOp5 rsvd => Sys2Proof.Machine.execRsvdOp5 rsvd s
  | .rsvdOp6 rsvd => Sys2Proof.Machine.execRsvdOp6 rsvd s
  | .rsvdOp7 rsvd => Sys2Proof.Machine.execRsvdOp7 rsvd s
  | .rsvdOp8 rsvd => Sys2Proof.Machine.execRsvdOp8 rsvd s
  | .rsvdOp9 rsvd => Sys2Proof.Machine.execRsvdOp9 rsvd s
  | .rsvdOpA rsvd => Sys2Proof.Machine.execRsvdOpA rsvd s
  | .rsvdOpB rsvd => Sys2Proof.Machine.execRsvdOpB rsvd s
  | .rsvdOpC rsvd => Sys2Proof.Machine.execRsvdOpC rsvd s
  | .rsvdOpD rsvd => Sys2Proof.Machine.execRsvdOpD rsvd s
  | .rsvdOpE rsvd => Sys2Proof.Machine.execRsvdOpE rsvd s
  | .rsvdOpF rsvd => Sys2Proof.Machine.execRsvdOpF rsvd s
  -- BUS rows
  | .wrCtrl v => Sys2Proof.Machine.execWrCtrl v s
  | .rdCtrl => Sys2Proof.Machine.execRdCtrl s
  | .rdStatus => Sys2Proof.Machine.execRdStatus s
  | .wrStatus v => Sys2Proof.Machine.execWrStatus v s
  | .wrMsgLenLo v => Sys2Proof.Machine.execWrMsgLenLo v s
  | .rdMsgLenLo => Sys2Proof.Machine.execRdMsgLenLo s
  | .wrMsgLenHi v => Sys2Proof.Machine.execWrMsgLenHi v s
  | .rdMsgLenHi => Sys2Proof.Machine.execRdMsgLenHi s
  | .rdDigest0 => Sys2Proof.Machine.execRdDigest0 s
  | .wrDigest0 v => Sys2Proof.Machine.execWrDigest0 v s
  | .rdDigest1 => Sys2Proof.Machine.execRdDigest1 s
  | .wrDigest1 v => Sys2Proof.Machine.execWrDigest1 v s
  | .rdDigest2 => Sys2Proof.Machine.execRdDigest2 s
  | .wrDigest2 v => Sys2Proof.Machine.execWrDigest2 v s
  | .rdDigest3 => Sys2Proof.Machine.execRdDigest3 s
  | .wrDigest3 v => Sys2Proof.Machine.execWrDigest3 v s
  | .rdDigest4 => Sys2Proof.Machine.execRdDigest4 s
  | .wrDigest4 v => Sys2Proof.Machine.execWrDigest4 v s
  | .rdRsvd off => Sys2Proof.Machine.execRdRsvd off s
  | .wrRsvd off v => Sys2Proof.Machine.execWrRsvd off v s
  | .wrMsg a b => Sys2Proof.Machine.execWrMsg a b s
  | .rdMsg a => Sys2Proof.Machine.execRdMsg a s
  | .rdOut k => Sys2Proof.Machine.execRdOut k s
  -- PHASE rows
  | .init => Sys2Proof.Machine.execInit s
  | .pad => Sys2Proof.Machine.execPad s
  | .check => Sys2Proof.Machine.execCheck s
  | .load => Sys2Proof.Machine.execLoad s
  | .expand => Sys2Proof.Machine.execExpand s
  | .round0019 => Sys2Proof.Machine.execRound0019 s
  | .round2039 => Sys2Proof.Machine.execRound2039 s
  | .round4059 => Sys2Proof.Machine.execRound4059 s
  | .round6079 => Sys2Proof.Machine.execRound6079 s
  | .accum => Sys2Proof.Machine.execAccum s
  | .serial => Sys2Proof.Machine.execSerial s

end Sys2Proof.Machine
end

