-- ==== Sys2Proof/WellFormed.lean ====
section
/-! DEFINITION. Which instructions are well formed (spec/30_encoding.md R75): a reserved register offset is a multiple of 4 from
`0x24` to `0xFC`, a message address is below `MSG_CAP`, an output index is below 20. Every other operand may hold any value. -/

namespace Sys2Proof

/-- The operands are ones the table's row admits, on a machine with parameters `p`. -/
def Instr.wellFormed (p : Params) : Instr → Bool
  | .nop _ => true
  | .start _ => true
  | .rsvdOp2 _ => true
  | .rsvdOp3 _ => true
  | .rsvdOp4 _ => true
  | .rsvdOp5 _ => true
  | .rsvdOp6 _ => true
  | .rsvdOp7 _ => true
  | .rsvdOp8 _ => true
  | .rsvdOp9 _ => true
  | .rsvdOpA _ => true
  | .rsvdOpB _ => true
  | .rsvdOpC _ => true
  | .rsvdOpD _ => true
  | .rsvdOpE _ => true
  | .rsvdOpF _ => true
  | .wrCtrl _ => true
  | .rdCtrl => true
  | .rdStatus => true
  | .wrStatus _ => true
  | .wrMsgLenLo _ => true
  | .rdMsgLenLo => true
  | .wrMsgLenHi _ => true
  | .rdMsgLenHi => true
  | .rdDigest0 => true
  | .wrDigest0 _ => true
  | .rdDigest1 => true
  | .wrDigest1 _ => true
  | .rdDigest2 => true
  | .wrDigest2 _ => true
  | .rdDigest3 => true
  | .wrDigest3 _ => true
  | .rdDigest4 => true
  | .wrDigest4 _ => true
  | .rdRsvd off => decide (0x24 ≤ off.toNat ∧ off.toNat ≤ 0xFC ∧ off.toNat % 4 = 0)
  | .wrRsvd off _ => decide (0x24 ≤ off.toNat ∧ off.toNat ≤ 0xFC ∧ off.toNat % 4 = 0)
  | .wrMsg a _ => decide (a < p.msgCap)
  | .rdMsg a => decide (a < p.msgCap)
  | .rdOut k => decide (k < 20)
  | .init => true
  | .pad => true
  | .check => true
  | .load => true
  | .expand => true
  | .round0019 => true
  | .round2039 => true
  | .round4059 => true
  | .round6079 => true
  | .accum => true
  | .serial => true

end Sys2Proof
end

