-- ==== Sys2Proof/Decode.lean ====
section
/-! DEFINITION. The decoder and the encoder (spec/30_encoding.md): the command word (R70 to R73), the admitted bus accesses (R75,
with spec/20_memory.md R55, R58 and R59), and the micro-step that `PHASE` and `t` select (R76 to R78). Everything the spec does
not admit is rejected by name. -/

namespace Sys2Proof

/-- The command a word written to `CTRL` holds: decoded from `OP = CTRL[3:0]` alone (R71, R72). -/
def decodeCommand (w : Word) : Instr :=
  let rsvd := w.extractLsb' 4 28
  match (w.extractLsb' 0 4).toNat with
  | 0x0 => .nop rsvd
  | 0x1 => .start rsvd
  | 0x2 => .rsvdOp2 rsvd
  | 0x3 => .rsvdOp3 rsvd
  | 0x4 => .rsvdOp4 rsvd
  | 0x5 => .rsvdOp5 rsvd
  | 0x6 => .rsvdOp6 rsvd
  | 0x7 => .rsvdOp7 rsvd
  | 0x8 => .rsvdOp8 rsvd
  | 0x9 => .rsvdOp9 rsvd
  | 0xA => .rsvdOpA rsvd
  | 0xB => .rsvdOpB rsvd
  | 0xC => .rsvdOpC rsvd
  | 0xD => .rsvdOpD rsvd
  | 0xE => .rsvdOpE rsvd
  | _ => .rsvdOpF rsvd

/-- The read of the register at an aligned `REG` offset (R58, R75). An offset above `0xFC` is outside the `REG` space (R50). -/
def decodeRegRead (off : Nat) : Except Reject Instr :=
  match off with
  | 0x00 => .ok .rdCtrl
  | 0x04 => .ok .rdStatus
  | 0x08 => .ok .rdMsgLenLo
  | 0x0C => .ok .rdMsgLenHi
  | 0x10 => .ok .rdDigest0
  | 0x14 => .ok .rdDigest1
  | 0x18 => .ok .rdDigest2
  | 0x1C => .ok .rdDigest3
  | 0x20 => .ok .rdDigest4
  | _ => if off ≤ 0xFC then .ok (.rdRsvd (BitVec.ofNat 8 off)) else .error .outOfWindow

/-- The write of `v` to the register at an aligned `REG` offset (R58, R75). -/
def decodeRegWrite (off : Nat) (v : Word) : Except Reject Instr :=
  match off with
  | 0x00 => .ok (.wrCtrl v)
  | 0x04 => .ok (.wrStatus v)
  | 0x08 => .ok (.wrMsgLenLo v)
  | 0x0C => .ok (.wrMsgLenHi v)
  | 0x10 => .ok (.wrDigest0 v)
  | 0x14 => .ok (.wrDigest1 v)
  | 0x18 => .ok (.wrDigest2 v)
  | 0x1C => .ok (.wrDigest3 v)
  | 0x20 => .ok (.wrDigest4 v)
  | _ => if off ≤ 0xFC then .ok (.wrRsvd (BitVec.ofNat 8 off) v) else .error .outOfWindow

/-- A `REG` access is 32 bits wide at a multiple of 4 (R55). -/
def decodeReg (a : Access) : Except Reject Instr :=
  if a.width = 32 ∧ a.loc % 4 = 0 then
    match a.dir with
    | .read => decodeRegRead a.loc
    | .write => decodeRegWrite a.loc a.data
  else .error .misalignedOrWide

/-- A `MSG` access is one byte below `MSG_CAP` (R55, R59). -/
def decodeMsg (p : Params) (a : Access) : Except Reject Instr :=
  if a.width = 8 then
    if a.loc < p.msgCap then
      match a.dir with
      | .read => .ok (.rdMsg a.loc)
      | .write => .ok (.wrMsg a.loc (a.data.extractLsb' 0 8))
    else .error .outOfWindow
  else .error .misalignedOrWide

/-- An `OUT` access is a read of one byte below 20 (R55, R59, R75). -/
def decodeOut (a : Access) : Except Reject Instr :=
  if a.width = 8 then
    match a.dir with
    | .read => if a.loc < 20 then .ok (.rdOut a.loc) else .error .outOfWindow
    | .write => .error .outOfWindow
  else .error .misalignedOrWide

/-- The admitted bus accesses (R75). -/
def decodeAccess (p : Params) (a : Access) : Except Reject Instr :=
  match a.space with
  | .reg => decodeReg a
  | .msg => decodeMsg p a
  | .out => decodeOut a

/-- The round row that `t` selects (R77, R157); `t` above 79 is a bad phase (R78). -/
def decodeRound (t : BitVec 7) : Except Reject Instr :=
  if t.toNat ≤ 19 then .ok .round0019
  else if t.toNat ≤ 39 then .ok .round2039
  else if t.toNat ≤ 59 then .ok .round4059
  else if t.toNat ≤ 79 then .ok .round6079
  else .error .badPhase

/-- The micro-step that `PHASE` and `t` select (R76 to R78). -/
def decodePhase (code : BitVec 4) (t : BitVec 7) : Except Reject Instr :=
  match code.toNat with
  | 0x0 => .error .noMicroStep
  | 0x1 => .ok .init
  | 0x2 => .ok .pad
  | 0x3 => .ok .check
  | 0x4 => .ok .load
  | 0x5 => if 16 ≤ t.toNat ∧ t.toNat ≤ 79 then .ok .expand else .error .badPhase
  | 0x6 => decodeRound t
  | 0x7 => .ok .accum
  | 0x8 => .ok .serial
  | _ => .error .badPhase

/-- The decoder, over the table's three formats. -/
def decode (p : Params) : Code → Except Reject Instr
  | .cmd w => .ok (decodeCommand w)
  | .bus a => decodeAccess p a
  | .phase code t => decodePhase code t

/-- The command word with opcode `op` and ignored bits `rsvd` (R70). -/
def commandWord (op : BitVec 4) (rsvd : BitVec 28) : Word := rsvd ++ op

/-- The read of the 32-bit register at offset `off` (R75). -/
def regRead (off : Nat) : Code := .bus ⟨.reg, off, 32, .read, 0⟩

/-- The write of `v` to the 32-bit register at offset `off` (R75). -/
def regWrite (off : Nat) (v : Word) : Code := .bus ⟨.reg, off, 32, .write, v⟩

/-- The encoder: the command word, the access, or the `PHASE` code (with the least `t` of its range) of an instruction, from the
tables of R71, R75, R76 and R157. -/
def encode : Instr → Code
  | .nop r => .cmd (commandWord 0x0 r)
  | .start r => .cmd (commandWord 0x1 r)
  | .rsvdOp2 r => .cmd (commandWord 0x2 r)
  | .rsvdOp3 r => .cmd (commandWord 0x3 r)
  | .rsvdOp4 r => .cmd (commandWord 0x4 r)
  | .rsvdOp5 r => .cmd (commandWord 0x5 r)
  | .rsvdOp6 r => .cmd (commandWord 0x6 r)
  | .rsvdOp7 r => .cmd (commandWord 0x7 r)
  | .rsvdOp8 r => .cmd (commandWord 0x8 r)
  | .rsvdOp9 r => .cmd (commandWord 0x9 r)
  | .rsvdOpA r => .cmd (commandWord 0xA r)
  | .rsvdOpB r => .cmd (commandWord 0xB r)
  | .rsvdOpC r => .cmd (commandWord 0xC r)
  | .rsvdOpD r => .cmd (commandWord 0xD r)
  | .rsvdOpE r => .cmd (commandWord 0xE r)
  | .rsvdOpF r => .cmd (commandWord 0xF r)
  | .wrCtrl v => regWrite 0x00 v
  | .rdCtrl => regRead 0x00
  | .rdStatus => regRead 0x04
  | .wrStatus v => regWrite 0x04 v
  | .wrMsgLenLo v => regWrite 0x08 v
  | .rdMsgLenLo => regRead 0x08
  | .wrMsgLenHi v => regWrite 0x0C v
  | .rdMsgLenHi => regRead 0x0C
  | .rdDigest0 => regRead 0x10
  | .wrDigest0 v => regWrite 0x10 v
  | .rdDigest1 => regRead 0x14
  | .wrDigest1 v => regWrite 0x14 v
  | .rdDigest2 => regRead 0x18
  | .wrDigest2 v => regWrite 0x18 v
  | .rdDigest3 => regRead 0x1C
  | .wrDigest3 v => regWrite 0x1C v
  | .rdDigest4 => regRead 0x20
  | .wrDigest4 v => regWrite 0x20 v
  | .rdRsvd off => regRead off.toNat
  | .wrRsvd off v => regWrite off.toNat v
  | .wrMsg a b => .bus ⟨.msg, a, 8, .write, b.setWidth 32⟩
  | .rdMsg a => .bus ⟨.msg, a, 8, .read, 0⟩
  | .rdOut k => .bus ⟨.out, k, 8, .read, 0⟩
  | .init => .phase 0x1 0
  | .pad => .phase 0x2 0
  | .check => .phase 0x3 0
  | .load => .phase 0x4 0
  | .expand => .phase 0x5 16
  | .round0019 => .phase 0x6 0
  | .round2039 => .phase 0x6 20
  | .round4059 => .phase 0x6 40
  | .round6079 => .phase 0x6 60
  | .accum => .phase 0x7 80
  | .serial => .phase 0x8 80

/-- The instruction is a micro-step of the engine: its row has the `PHASE` format. Every other one is a step of the host. -/
def Instr.isMicroStep (i : Instr) : Bool :=
  match encode i with
  | .phase _ _ => true
  | .cmd _ => false
  | .bus _ => false

/-- The space and the offset a platform address falls in, if any (R60): each window is `base` and the size of its space
(R50). Windows that overlap are the platform's mistake; `REG` is then looked at first (log entry 16). -/
def Params.locate (p : Params) (addr : Nat) : Option (Space × Nat) :=
  if p.regBase ≤ addr ∧ addr < p.regBase + 0x100 then some (.reg, addr - p.regBase)
  else if p.msgBase ≤ addr ∧ addr < p.msgBase + p.msgCap then some (.msg, addr - p.msgBase)
  else if p.outBase ≤ addr ∧ addr < p.outBase + 20 then some (.out, addr - p.outBase)
  else none

/-- What a bare number of the opcode table stands for. The table's three formats share their numbers and carry no tag, so the
width chooses: up to 4 bits a `PHASE` code (with a `t` in its range), a byte a command opcode below 16 and a register read
from 16 up, and up to 32 bits a whole command word. DESIGN CHOICE, log entry 11. -/
def tableCode (nbits w : Nat) : Option Code :=
  if nbits ≤ 4 then
    some (.phase (BitVec.ofNat 4 w) (if w = 5 then 16 else 0))
  else if nbits ≤ 8 then
    if w < 16 then some (.cmd (BitVec.ofNat 32 w)) else some (regRead w)
  else if nbits ≤ 32 then some (.cmd (BitVec.ofNat 32 w))
  else none

/-- The instruction the decoder reads from a number of the opcode table, if any. -/
def decodeTableWord (nbits w : Nat) : Option Instr :=
  match tableCode nbits w with
  | none => none
  | some c =>
    match decode Config.params c with
    | .ok i => some i
    | .error _ => none

end Sys2Proof
end

