-- ==== Sys2Proof/Machine/Fetch.lean ====
section
/-! DEFINITION. What a step runs: the next entry of the schedule (spec/00_scope.md R19), decoded (spec/30_encoding.md R75 to R77),
or, with nothing scheduled, the engine's own next micro-step (spec/41_digest_sequencer.md R110). -/

namespace Sys2Proof.Machine

/-- What the fetch finds: an instruction and the state to run it on, a state already reached (a reset, or an engine turn while
the engine is idle), or an access that is rejected. -/
inductive Fetched where
  | run (i : Instr) (s : State)
  | settled (s : State)
  | stop (f : Fault)
  | refuse (r : Refusal)
  deriving DecidableEq, Repr

/-- Decode a code and run what it reads; an idle engine has no micro-step and stays as it is (R76, R110). -/
def fetchCode (c : Code) (s : State) : Fetched :=
  match decode s.params c with
  | .ok i => .run i s
  | .error .misalignedOrWide => .refuse .misalignedOrWide
  | .error .outOfWindow => .refuse .outOfWindow
  | .error .badPhase => .stop .badPhase
  | .error .noMicroStep => .settled s

/-- The engine's own next micro-step (R77, R110). -/
def fetchMicroStep (s : State) : Fetched := fetchCode (.phase s.phase s.t) s

/-- A host access written with its platform address (R60). -/
def fetchPlatform (addr width : Nat) (dir : Dir) (data : Word) (s : State) : Fetched :=
  match s.params.locate addr with
  | some (space, loc) => fetchCode (.bus ⟨space, loc, width, dir, data⟩) s
  | none => .refuse .outOfWindow

/-- What one entry of the schedule does, on the state from which it has been taken. -/
def fetchEvent (e : Event) (s : State) : Fetched :=
  match e with
  | .cmd w => fetchCode (.cmd w) s
  | .bus a => fetchCode (.bus a) s
  | .platform addr width dir data => fetchPlatform addr width dir data s
  | .engine => fetchMicroStep s
  | .reset => .settled s.resetEngine

/-- The next event: the head of the schedule, or the engine when nothing is scheduled (log entries 1 and 2). -/
def fetch (s : State) : Fetched :=
  match s.inbox with
  | [] => fetchMicroStep s
  | e :: rest => fetchEvent e (s.setInbox rest)

/-- Every internal item marked written: what a micro-step placed directly into a state takes to run (log entry 12). -/
def allWritten : Marks := ⟨true, true, true, true, true, Vector.replicate 80 true⟩

/-- Put a code where the next step finds it: a host access at the head of the schedule, a micro-step as `PHASE` and `t` with an
engine turn at the head of the schedule and its operands marked written (log entry 12). -/
def placeCode (c : Code) (s : State) : State :=
  match c with
  | .cmd w => s.setInbox (.cmd w :: s.inbox)
  | .bus a => s.setInbox (.bus a :: s.inbox)
  | .phase code t => { s with phase := code, t := t, marks := allWritten, inbox := .engine :: s.inbox }

/-- Put a number of the opcode table where the next step finds it; one that stands for nothing changes nothing. -/
def placeTableWord (nbits w : Nat) (s : State) : State :=
  match tableCode nbits w with
  | some c => placeCode c s
  | none => s

end Sys2Proof.Machine
end

