-- ==== Sys2Proof/Machine/Step.lean ====
section
/-! DEFINITION. One step of the machine: one atomic event (spec/20_memory.md R62). -/

namespace Sys2Proof.Machine

/-- One event: a host access, a micro-step of the engine, or a reset. -/
def step (s : State) : Host.Outcome State Fault Refusal :=
  match fetch s with
  | .run i t => exec i t
  | .settled t => .next t
  | .stop f => .fault f
  | .refuse r => .refused r

/-- `s` with the instruction that the table's number stands for placed where `step` takes its next instruction from (log
entries 11 and 12). -/
def State.withFetchWord (s : State) (nbits w : Nat) : State := placeTableWord nbits w s

end Sys2Proof.Machine
end

