-- ==== Sys2Proof/Machine/Platform.lean ====
section
/-! DEFINITION. A platform with several engines (spec/00_scope.md R12, spec/20_memory.md R69, spec/60_exceptions.md R192): a list
of `N_ENGINES` instances, each a whole machine of its own, of which one takes each step. Log entry 17. -/

namespace Sys2Proof.Machine

/-- The engines of a platform. -/
structure Platform where
  engines : List State
  deriving DecidableEq, Repr

/-- `N_ENGINES`, the number of engines of a platform (R12), which no step changes. -/
def Platform.nEngines (p : Platform) : Nat := p.engines.length

/-- The bound the spec sets: `N_ENGINES >= 1` (R12). -/
abbrev Platform.Valid (p : Platform) : Prop := 1 ≤ p.nEngines

/-- A platform after reset, one engine for each set of parameters: every instance has windows of its own (R69, R192). -/
def Platform.reset (ps : List Params) : Platform := ⟨ps.map fun q => { State.reset with params := q }⟩

/-- One event of engine `k`. A platform without that engine refuses it. A fault or a refusal of one engine ends the run of the whole
platform, with no state: whether the other engines then go on the spec does not say (R188 speaks of a run, R12 of one instance).
DESIGN CHOICE, log entries 17 and 20. -/
def Platform.step (p : Platform) (k : Nat) : Host.Outcome Platform Fault Refusal :=
  match p.engines[k]? with
  | none => .refused .outOfWindow
  | some s =>
    match Sys2Proof.Machine.step s with
    | .next t => .next ⟨p.engines.set k t⟩
    | .fault f => .fault f
    | .refused r => .refused r

end Sys2Proof.Machine
end

