-- ==== Sys2Proof/Machine/Reference.lean ====
section
/-! DEFINITION. What an operation computes, as the spec's derived results say it without the sequencer: the padded message
(spec/41_digest_sequencer.md R117, spec/42_padding.md R139), the whole-block function (spec/43_compression.md R162) and the digest
(R117). The machine does not use these; statements compare the machine with them. -/

namespace Sys2Proof.Machine

/-- `pad(M)` (R117): the message, the marker byte, `Z = P - T - 9` zero bytes, and the bit length in eight bytes. -/
def padMessage (m : List Byte) : List Byte :=
  let t := m.length % 64
  let p := if t ≤ 55 then 64 else 128
  m ++ [0x80#8] ++ List.replicate (p - t - 9) 0x00#8 ++ bytesBe (BitVec.ofNat 64 (8 * m.length)) 8

/-- The number of blocks of a message of `l` bytes (R118). -/
def blockCount (l : Nat) : Nat := (l + 8) / 64 + 1

/-- Block `i` of a byte sequence (R117). -/
def blockOf (bytes : List Byte) (i : Nat) : List Byte := (bytes.drop (64 * i)).take 64

/-- The first `n` words of the schedule of a block (R162). -/
def scheduleOf (x : List Byte) : Nat → List Word
  | 0 => []
  | n + 1 =>
    let ws := scheduleOf x n
    let word (j : Nat) : Word := ws.getD j 0#32
    ws ++ [if n < 16 then blockWord x n else rotl (word (n - 3) ^^^ word (n - 8) ^^^ word (n - 14) ^^^ word (n - 16)) 1]

/-- The round function of round `t` (R157). -/
def roundFunction (t : Nat) : Word → Word → Word → Word :=
  if t ≤ 19 then fChoose else if t ≤ 39 then fParity else if t ≤ 59 then fMajority else fParity

/-- The round constant of round `t` (R157). -/
def roundConstant (t : Nat) : Word :=
  if t ≤ 19 then k0019 else if t ≤ 39 then k2039 else if t ≤ 59 then k4059 else k6079

/-- The working registers after the first `n` rounds over the schedule `ws` (R162). -/
def roundsOf (ws : List Word) (r : Working) : Nat → Working
  | 0 => r
  | n + 1 =>
    let q := roundsOf ws r n
    ⟨rotl q.a 5 + roundFunction n q.b q.c q.d + q.e + roundConstant n + ws.getD n 0#32, q.a, rotl q.b 30, q.c, q.d⟩

/-- `COMPRESS(H, X)` (R162). -/
def compress (h : Vector Word 5) (x : List Byte) : Vector Word 5 :=
  let r := roundsOf (scheduleOf x 80) ⟨h[0], h[1], h[2], h[3], h[4]⟩ 80
  #v[h[0] + r.a, h[1] + r.b, h[2] + r.c, h[3] + r.d, h[4] + r.e]

/-- `H^n`: the accumulator after the first `n` blocks of a byte sequence (R117). -/
def accumulatorAfter (bytes : List Byte) : Nat → Vector Word 5
  | 0 => initialH
  | n + 1 => compress (accumulatorAfter bytes n) (blockOf bytes n)

/-- `H^N` for the padded message: the five words of the digest (R117). -/
def digestWords (m : List Byte) : Vector Word 5 := accumulatorAfter (padMessage m) ((padMessage m).length / 64)

/-- `SHA1(M)`, the twenty bytes of the digest (R117). -/
def sha1 (m : List Byte) : List Byte :=
  let h := digestWords m
  bytesBe h[0] 4 ++ bytesBe h[1] 4 ++ bytesBe h[2] 4 ++ bytesBe h[3] 4 ++ bytesBe h[4] 4

end Sys2Proof.Machine
end

