-- ==== Sys2Proof/Safety.lean ====
section
/-! DEFINITION. What a well-kept machine is: the facts that hold at reset and that every step keeps (spec/10_state.md R22, R24,
R39; spec/20_memory.md R62; spec/30_encoding.md R78; spec/40_host_interface.md R96). Statements about every state use it as their
premise where only a state that no run reaches could break them. -/

namespace Sys2Proof.Machine

/-- The block `(SRC, OFF)` is one that R114 and R115 give for the plan: below `F` in steps of 64 in `MSG`, or in the padded
region of `SCR`. -/
abbrev Block.fits (b : Block) (pl : Plan) : Prop :=
  (b.src = .msg ∧ b.off % 64 = 0 ∧ b.off + 64 ≤ pl.f) ∨
  (b.src = .scr ∧ (b.off = 0 ∨ (b.off = 64 ∧ pl.p = 128#8)))

/-- The plan is written and is the one `PAD` computes from `L`, the padded region is built, and the accumulator is written. -/
abbrev State.planned (s : State) : Prop :=
  s.marks.h = true ∧ s.marks.plan = true ∧ s.marks.scr = true ∧ s.plan = planOf s.len

/-- A block is selected and fits the plan. -/
abbrev State.onBlock (s : State) : Prop := s.planned ∧ s.marks.block = true ∧ s.block.fits s.plan

/-- The first `n` words of the schedule are written. -/
abbrev State.wordsWritten (s : State) (n : Nat) : Prop := ∀ j : Fin 80, j.val < n → s.marks.w[j] = true

/-- What has been written when the engine stands at each `PHASE`, and the range of `t` there (R39, R78). -/
abbrev State.sequenced (s : State) : Prop :=
  s.phase.toNat ≤ 8 ∧
  (s.phase = Phase.pad → s.marks.h = true) ∧
  (s.phase = Phase.check → s.planned) ∧
  (s.phase = Phase.load → s.onBlock) ∧
  (s.phase = Phase.expand →
    s.onBlock ∧ s.marks.regs = true ∧ 16 ≤ s.t.toNat ∧ s.t.toNat ≤ 79 ∧ s.wordsWritten s.t.toNat) ∧
  (s.phase = Phase.round → s.onBlock ∧ s.marks.regs = true ∧ s.t.toNat ≤ 79 ∧ s.wordsWritten 80) ∧
  (s.phase = Phase.accum → s.onBlock ∧ s.marks.regs = true) ∧
  (s.phase = Phase.serial → s.marks.h = true)

/-- The invariant of the machine. -/
structure State.Inv (s : State) : Prop where
  /-- the parameters are ones the spec allows (R9, R10) -/
  params : s.params.Valid
  /-- the message memory is in canonical form -/
  memWf : s.mem.wf
  /-- no byte is written outside the message memory (R35) -/
  memCap : ∀ c ∈ s.mem, c.1 < s.params.msgCap
  /-- `MSG_LEN` fits in `LEN_W` bits (R23) -/
  msgLen : s.msgLen < 2 ^ s.params.lenW
  /-- `L` fits in `LEN_W` bits (R31) -/
  len : s.len < 2 ^ s.params.lenW
  /-- `F` fits in `LEN_W` bits (R32) -/
  fullEnd : s.plan.f < 2 ^ s.params.lenW
  /-- `OFF` fits in `LEN_W` bits (R33) but for the one value that R115 gives it beyond them (DESIGN CHOICE, log entry 21) -/
  offset : s.block.off < 2 ^ s.params.lenW ∨ (s.params.lenW = 6 ∧ s.block.off = 64)
  /-- `STATUS` takes only the values of R22 -/
  status : s.statusLegal
  /-- the digest reads zero unless it is the digest of the last operation (R24, R206) -/
  digest : s.valid = false → s.digest = zeroDigest
  /-- while busy `MSG_LEN` equals the latched `L` (R96), which is at most `MSG_CAP` (R91) -/
  busyLen : s.phase ≠ Phase.idle → s.len = s.msgLen ∧ s.len ≤ s.params.msgCap
  /-- every item the next micro-step reads has been written (R39) -/
  sequenced : s.sequenced

end Sys2Proof.Machine
end

