-- ==== Sys2Proof/Certificates/Slice0/Obligations.lean ====
section
/-! DEFINITION. The statements for the provers. Each formalises a rule of spec/ about the machine over every state (or every state
that meets the invariant `State.Inv`), and writes out the next state as the rules give it. Where it says `{ s with … }`, every
field not named is unchanged: that is the instruction's frame, and it includes every byte of `MSG`. -/

open Sys2Proof Sys2Proof.Machine

/-! ## Encoding -/

/-- Decoding the encoding of a well-formed instruction gives it back, for every instruction and every operand
(R70 to R73, R75, R76). -/
def Obligations.EncodedInstructionDecodesBack : Prop :=
  ∀ (p : Params) (i : Instr), i.wellFormed p = true → decode p (encode i) = .ok i

/-- What the decoder reads is well formed, and its encoding is the code that was read, but for what chooses no instruction. That is the
data of a read, `t` of a micro-step other than `ROUND`, and `t` of a `ROUND` within its row: a `ROUND` is encoded with a `t` of the
same row of R157 (R71, R75, R76, R77). It is also the data of a byte write above bit 7, which is the model's choice: R75 gives such
an access a byte, the model's record of an access a word (log entry 10). -/
def Obligations.DecodedCodeIsTheEncodingRead : Prop :=
  ∀ (p : Params) (i : Instr),
    (∀ w, decode p (.cmd w) = .ok i → i.wellFormed p = true ∧ encode i = .cmd w) ∧
    (∀ a, decode p (.bus a) = .ok i →
      i.wellFormed p = true ∧
      ∃ b : Access, encode i = .bus b ∧ b.space = a.space ∧ b.loc = a.loc ∧ b.width = a.width ∧ b.dir = a.dir ∧
        (a.dir = .write → b.data = if a.space = .reg then a.data else a.data &&& 0x000000FF#32)) ∧
    (∀ c t, decode p (.phase c t) = .ok i →
      i.wellFormed p = true ∧
      ∃ t', encode i = .phase c t' ∧
        (c = 0x6#4 →
          (t.toNat ≤ 19 ∧ t'.toNat ≤ 19) ∨
          (20 ≤ t.toNat ∧ t.toNat ≤ 39 ∧ 20 ≤ t'.toNat ∧ t'.toNat ≤ 39) ∨
          (40 ≤ t.toNat ∧ t.toNat ≤ 59 ∧ 40 ≤ t'.toNat ∧ t'.toNat ≤ 59) ∨
          (60 ≤ t.toNat ∧ t.toNat ≤ 79 ∧ 60 ≤ t'.toNat ∧ t'.toNat ≤ 79)))

/-- A few encodings written out from R71, R75, R76 and R77 decode to the instruction they stand for. -/
def Obligations.SpecEncodingsDecode : Prop :=
  ∀ p : Params, 3 ≤ p.msgCap →
    decode p (.cmd 0x00000000#32) = .ok (.nop 0#28) ∧
    decode p (.cmd 0xFFFFFFF1#32) = .ok (.start 0xFFFFFFF#28) ∧
    decode p (.cmd 0x00000007#32) = .ok (.rsvdOp7 0#28) ∧
    decode p (.bus ⟨.reg, 0x04, 32, .read, 0⟩) = .ok .rdStatus ∧
    decode p (.bus ⟨.reg, 0x08, 32, .write, 0x00000038#32⟩) = .ok (.wrMsgLenLo 0x00000038#32) ∧
    decode p (.bus ⟨.reg, 0x20, 32, .read, 0⟩) = .ok .rdDigest4 ∧
    decode p (.bus ⟨.msg, 2, 8, .write, 0x00000063#32⟩) = .ok (.wrMsg 2 0x63#8) ∧
    decode p (.bus ⟨.out, 19, 8, .read, 0⟩) = .ok (.rdOut 19) ∧
    decode p (.phase 0x2#4 0#7) = .ok .pad ∧
    decode p (.phase 0x6#4 40#7) = .ok .round4059

/-- Bits 31:4 of a command word take no part: the word acts exactly as the word with those bits cleared, written as a command or
as a write of `CTRL` (R72). -/
def Obligations.CommandIgnoresReservedBits : Prop :=
  ∀ (w : Word) (s : State),
    exec (decodeCommand w) s = exec (decodeCommand (w &&& 0x0000000F#32)) s ∧
    exec (.wrCtrl w) s = exec (.wrCtrl (w &&& 0x0000000F#32)) s

/-! ## The step -/

/-- A step takes the next entry of the schedule and runs what it decodes to, on the state without that entry; with nothing
scheduled it runs the micro-step of the engine (R19, R60, R62, R110; the schedule is the model's, log entry 1). -/
def Obligations.StepRunsTheDecodedInstruction : Prop :=
  ∀ (s : State) (rest : List Event) (i : Instr),
    (∀ w, s.inbox = .cmd w :: rest → decode s.params (.cmd w) = .ok i →
      step s = exec i { s with inbox := rest }) ∧
    (∀ a, s.inbox = .bus a :: rest → decode s.params (.bus a) = .ok i →
      step s = exec i { s with inbox := rest }) ∧
    (∀ addr width dir data space loc, s.inbox = .platform addr width dir data :: rest →
      s.params.locate addr = some (space, loc) → decode s.params (.bus ⟨space, loc, width, dir, data⟩) = .ok i →
      step s = exec i { s with inbox := rest }) ∧
    (s.inbox = .engine :: rest → decode s.params (.phase s.phase s.t) = .ok i →
      step s = exec i { s with inbox := rest }) ∧
    (s.inbox = [] → decode s.params (.phase s.phase s.t) = .ok i → step s = exec i s)

/-- With nothing scheduled, the engine's next step is the micro-step R76 names for `PHASE`, and in `ROUND` the row that `t`
selects; in every state that meets the invariant with `PHASE` not `IDLE` there is exactly one (R77). -/
def Obligations.EngineStepIsTheMicroStepOfPhase : Prop :=
  (∀ s : State, s.inbox = [] →
    (s.phase = 0x1#4 → step s = exec .init s) ∧
    (s.phase = 0x2#4 → step s = exec .pad s) ∧
    (s.phase = 0x3#4 → step s = exec .check s) ∧
    (s.phase = 0x4#4 → step s = exec .load s) ∧
    (s.phase = 0x5#4 → 16 ≤ s.t.toNat → s.t.toNat ≤ 79 → step s = exec .expand s) ∧
    (s.phase = 0x6#4 → s.t.toNat ≤ 19 → step s = exec .round0019 s) ∧
    (s.phase = 0x6#4 → 20 ≤ s.t.toNat → s.t.toNat ≤ 39 → step s = exec .round2039 s) ∧
    (s.phase = 0x6#4 → 40 ≤ s.t.toNat → s.t.toNat ≤ 59 → step s = exec .round4059 s) ∧
    (s.phase = 0x6#4 → 60 ≤ s.t.toNat → s.t.toNat ≤ 79 → step s = exec .round6079 s) ∧
    (s.phase = 0x7#4 → step s = exec .accum s) ∧
    (s.phase = 0x8#4 → step s = exec .serial s)) ∧
  (∀ s : State, s.Inv → s.phase ≠ 0x0#4 →
    ∃ i : Instr, i.isMicroStep = true ∧ ∀ j, decode s.params (.phase s.phase s.t) = .ok j ↔ j = i)

/-- A `PHASE` code from `0x9` up, `EXPAND` with `t` outside `16..79` and `ROUND` with `t` outside `0..79` fault with
`BAD_PHASE`, and no step of a state that meets the invariant leads to one (R78). -/
def Obligations.BadPhaseFaultsAndIsNeverReached : Prop :=
  (∀ s : State, s.inbox = [] →
    (9 ≤ s.phase.toNat ∨ (s.phase = 0x5#4 ∧ (s.t.toNat < 16 ∨ 79 < s.t.toNat)) ∨ (s.phase = 0x6#4 ∧ 79 < s.t.toNat)) →
    step s = .fault .badPhase) ∧
  (∀ s t : State, s.Inv → step s = .next t →
    t.phase.toNat < 9 ∧ (t.phase = 0x5#4 → 16 ≤ t.t.toNat ∧ t.t.toNat ≤ 79) ∧ (t.phase = 0x6#4 → t.t.toNat ≤ 79))

/-- An idle engine has no step: with nothing scheduled the machine stays as it is, and an engine turn while idle only leaves the
schedule (R110, R201; the two are the model's choices, log entries 2 and 3). -/
def Obligations.IdleEngineTakesNoStep : Prop :=
  ∀ (s : State), s.phase = 0x0#4 →
    (s.inbox = [] → step s = .next s) ∧
    (∀ rest, s.inbox = .engine :: rest → step s = .next { s with inbox := rest })

/-- A `REG` access that is not 32 bits wide at a multiple of 4, and a `MSG` or `OUT` access wider than a byte, are refused with
`MISALIGNED_OR_WIDE` (R55, R188). An access that is outside the windows as well could by R59 be refused with `OUT_OF_WINDOW`; that the
width and the alignment are looked at first is the model's choice (log entry 10). -/
def Obligations.MisalignedOrWideAccessIsRefused : Prop :=
  ∀ (s : State) (a : Access) (rest : List Event), s.inbox = .bus a :: rest →
    (a.space = .reg ∧ (a.width ≠ 32 ∨ a.loc % 4 ≠ 0)) ∨ (a.space ≠ .reg ∧ 8 < a.width) →
    step s = .refused .misalignedOrWide

/-- A reserved `REG` offset reads 0 and ignores writes, with no other effect; a `MSG` access at or above `MSG_CAP` and an `OUT`
access at or above 20 are refused with `OUT_OF_WINDOW` (R59). -/
def Obligations.ReservedOffsetsAndWindows : Prop :=
  ∀ (s : State) (a : Access) (rest : List Event), s.inbox = .bus a :: rest →
    (a.space = .reg → a.width = 32 → a.loc % 4 = 0 → 0x24 ≤ a.loc → a.loc ≤ 0xFC →
      (a.dir = .read → step s = .next { s with inbox := rest, returned := .word 0x00000000#32 }) ∧
      (a.dir = .write → step s = .next { s with inbox := rest })) ∧
    (a.space = .msg → a.width = 8 → s.params.msgCap ≤ a.loc → step s = .refused .outOfWindow) ∧
    (a.space = .out → a.width = 8 → 20 ≤ a.loc → step s = .refused .outOfWindow)

/-! ## Reset -/

/-- Reset, at any time: idle, `STATUS`, `MSG_LEN`, the digest, `t` and `L` zero, every other internal item and every byte of `MSG`
unwritten (R200). -/
def Obligations.ResetClearsTheEngine : Prop :=
  ∀ (s : State) (rest : List Event), s.inbox = .reset :: rest →
    ∃ t, step s = .next t ∧ t.phase = 0x0#4 ∧ t.done = false ∧ t.valid = false ∧ t.err = 0#4 ∧
      t.statusWord = 0x00000000#32 ∧ t.msgLen = 0 ∧ (∀ k : Fin 5, t.digest[k] = 0x00000000#32) ∧ t.t = 0#7 ∧ t.len = 0 ∧
      t.marks.h = false ∧ t.marks.regs = false ∧ t.marks.plan = false ∧ t.marks.block = false ∧ t.marks.scr = false ∧
      (∀ j : Fin 80, t.marks.w[j] = false) ∧ (∀ a, t.mem.read a = none)

/-- The state after reset: the values spec/10_state.md gives, everything else unwritten (R20 to R35, R200). Its parameters are within the
bounds of R9 and R10; that `LEN_W` is 32, the default of R9, and that the OPEN `MSG_CAP` is an unknown number within its bounds, is
the model's choice (log entry 6). -/
def Obligations.ResetStateIsTheSpecs : Prop :=
  State.reset.statusWord = 0x00000000#32 ∧ State.reset.msgLen = 0 ∧ State.reset.digest = #v[0#32, 0#32, 0#32, 0#32, 0#32] ∧
  State.reset.t = 0#7 ∧ State.reset.phase = 0x0#4 ∧ State.reset.len = 0 ∧
  (∀ k, k < 20 → outByte State.reset.digest k = 0x00#8) ∧ (∀ a, State.reset.mem.read a = none) ∧
  State.reset.marks = ⟨false, false, false, false, false, Vector.replicate 80 false⟩ ∧ State.reset.params.lenW = 32 ∧
  State.reset.params.Valid

/-! ## Commands -/

/-- `NOP` changes nothing, in every state (R90). -/
def Obligations.NopChangesNothing : Prop :=
  ∀ (r : BitVec 28) (s : State), exec (.nop r) s = .next s

/-- `START` while idle: with `MSG_LEN` at most `MSG_CAP` it is accepted, and `STATUS` then reads `0x00000001`; with a larger one it
ends with `LENGTH_RANGE` and `STATUS` reads `0x00000022`, `PHASE` staying `IDLE` and `L` unchanged (R91, R182). -/
def Obligations.StartBeginsAnOperation : Prop :=
  ∀ (r : BitVec 28) (s : State), s.phase = 0x0#4 →
    (s.msgLen ≤ s.params.msgCap →
      ∃ t, exec (.start r) s = .next t ∧ t.statusWord = 0x00000001#32 ∧
        t = { s with
          digest := #v[0#32, 0#32, 0#32, 0#32, 0#32], len := s.msgLen, done := false, valid := false, err := 0#4,
          phase := 0x1#4 }) ∧
    (s.params.msgCap < s.msgLen →
      ∃ t, exec (.start r) s = .next t ∧ t.statusWord = 0x00000022#32 ∧
        t = { s with
          digest := #v[0#32, 0#32, 0#32, 0#32, 0#32], done := true, valid := false, err := 2#4, phase := 0x0#4 })

/-- A reserved command while idle ends with `ILLEGAL_COMMAND`, whatever the length: `STATUS` reads `0x00000032`, the digest is
cleared, and nothing else changes (R92, R183). -/
def Obligations.ReservedCommandIsIllegalWhileIdle : Prop :=
  ∀ (r : BitVec 28) (s : State) (i : Instr), s.phase = 0x0#4 →
    i ∈ [.rsvdOp2 r, .rsvdOp3 r, .rsvdOp4 r, .rsvdOp5 r, .rsvdOp6 r, .rsvdOp7 r, .rsvdOp8 r, .rsvdOp9 r, .rsvdOpA r,
      .rsvdOpB r, .rsvdOpC r, .rsvdOpD r, .rsvdOpE r, .rsvdOpF r] →
    ∃ t, exec i s = .next t ∧ t.statusWord = 0x00000032#32 ∧
      t = { s with
        digest := #v[0#32, 0#32, 0#32, 0#32, 0#32], done := true, valid := false, err := 3#4, phase := 0x0#4 }

/-- Every command other than `NOP` written while busy is ignored (R93). -/
def Obligations.CommandsWhileBusyAreIgnored : Prop :=
  ∀ (r : BitVec 28) (s : State) (i : Instr), s.phase ≠ 0x0#4 →
    i ∈ [.start r, .rsvdOp2 r, .rsvdOp3 r, .rsvdOp4 r, .rsvdOp5 r, .rsvdOp6 r, .rsvdOp7 r, .rsvdOp8 r, .rsvdOp9 r,
      .rsvdOpA r, .rsvdOpB r, .rsvdOpC r, .rsvdOpD r, .rsvdOpE r, .rsvdOpF r] →
    exec i s = .next s

/-- A write of `CTRL` performs the command its value holds, in every state: nothing for `NOP` or while busy, an accepted `START`
or `LENGTH_RANGE` for `OP = 1`, `ILLEGAL_COMMAND` for the others, the opcode looked at before the length (R70, R90 to R93, R186). -/
def Obligations.WriteOfCtrlPerformsTheCommand : Prop :=
  ∀ (v : Word) (s : State),
    exec (.wrCtrl v) s = exec (decodeCommand v) s ∧
    exec (.wrCtrl v) s = .next
      (if v.extractLsb' 0 4 = 0x0#4 ∨ s.phase ≠ 0x0#4 then s
       else if v.extractLsb' 0 4 = 0x1#4 then
         if s.msgLen ≤ s.params.msgCap then
           { s with
             digest := #v[0#32, 0#32, 0#32, 0#32, 0#32], len := s.msgLen, done := false, valid := false, err := 0#4,
             phase := 0x1#4 }
         else { s with digest := #v[0#32, 0#32, 0#32, 0#32, 0#32], done := true, valid := false, err := 2#4 }
       else { s with digest := #v[0#32, 0#32, 0#32, 0#32, 0#32], done := true, valid := false, err := 3#4 })

/-! ## Register accesses -/

/-- `RD_STATUS` returns `BUSY` in bit 0, `DONE` in bit 1, `VALID` in bit 2, `ERR` in bits 7:4 and 0 in the others, and changes
nothing else; in a state that meets the invariant it returns one of six values (R97, R22). -/
def Obligations.ReadStatusReturnsTheStatusWord : Prop :=
  ∀ s : State,
    ∃ v : Word, exec .rdStatus s = .next { s with returned := .word v } ∧
      v.getLsbD 0 = decide (s.phase ≠ 0x0#4) ∧ v.getLsbD 1 = s.done ∧ v.getLsbD 2 = s.valid ∧ v.getLsbD 3 = false ∧
      v.extractLsb' 4 4 = s.err ∧ v.extractLsb' 8 24 = 0#24 ∧
      (s.Inv → v ∈ [0x00000000#32, 0x00000001#32, 0x00000006#32, 0x00000012#32, 0x00000022#32, 0x00000032#32])

/-- Writes of `STATUS` and of the digest registers are ignored, `RD_CTRL` returns 0, a write to `OUT` is not admitted, and at every
reserved register offset a read returns 0 and a write changes nothing (R102, R59). -/
def Obligations.AccessesWithoutEffect : Prop :=
  (∀ (v : Word) (s : State) (i : Instr),
    i ∈ [.wrStatus v, .wrDigest0 v, .wrDigest1 v, .wrDigest2 v, .wrDigest3 v, .wrDigest4 v] → exec i s = .next s) ∧
  (∀ s : State, exec .rdCtrl s = .next { s with returned := .word 0x00000000#32 }) ∧
  (∀ (p : Params) (loc : Nat) (v : Word), decode p (.bus ⟨.out, loc, 8, .write, v⟩) = .error .outOfWindow) ∧
  (∀ (off : BitVec 8) (v : Word) (s : State), 0x24 ≤ off.toNat → off.toNat ≤ 0xFC → off.toNat % 4 = 0 →
    exec (.rdRsvd off) s = .next { s with returned := .word 0x00000000#32 } ∧ exec (.wrRsvd off v) s = .next s)

/-- `WR_MSG_LEN_LO`: idle, it writes bits 31:0 and keeps the bits above when `LEN_W >= 32`, and the low `LEN_W` bits of the value
otherwise; busy, it is dropped (R94). -/
def Obligations.WriteMsgLenLo : Prop :=
  ∀ (v : Word) (s : State),
    (s.phase = 0x0#4 → 32 ≤ s.params.lenW →
      ∃ n, exec (.wrMsgLenLo v) s = .next { s with msgLen := n } ∧ n % 2 ^ 32 = v.toNat ∧ n / 2 ^ 32 = s.msgLen / 2 ^ 32) ∧
    (s.phase = 0x0#4 → s.params.lenW < 32 →
      exec (.wrMsgLenLo v) s = .next { s with msgLen := v.toNat % 2 ^ s.params.lenW }) ∧
    (s.phase ≠ 0x0#4 → exec (.wrMsgLenLo v) s = .next s)

/-- `WR_MSG_LEN_HI`: idle with `LEN_W > 32`, it writes the bits above 31 from the low bits of the value and keeps the low 32;
otherwise it changes nothing (R95). -/
def Obligations.WriteMsgLenHi : Prop :=
  ∀ (v : Word) (s : State),
    (s.phase = 0x0#4 → 32 < s.params.lenW →
      ∃ n, exec (.wrMsgLenHi v) s = .next { s with msgLen := n } ∧ n % 2 ^ 32 = s.msgLen % 2 ^ 32 ∧
        n / 2 ^ 32 = v.toNat % 2 ^ (s.params.lenW - 32)) ∧
    (¬ (s.phase = 0x0#4 ∧ 32 < s.params.lenW) → exec (.wrMsgLenHi v) s = .next s)

/-- `RD_MSG_LEN_LO` and `RD_MSG_LEN_HI` return the two parts of `MSG_LEN`, zero-extended, at any time; while busy `MSG_LEN` equals
the latched `L` (R96). -/
def Obligations.ReadMsgLen : Prop :=
  (∀ s : State, s.params.Valid → s.msgLen < 2 ^ s.params.lenW →
    ∃ lo hi : Word, exec .rdMsgLenLo s = .next { s with returned := .word lo } ∧
      exec .rdMsgLenHi s = .next { s with returned := .word hi } ∧
      lo.toNat = s.msgLen % 2 ^ 32 ∧ hi.toNat = s.msgLen / 2 ^ 32) ∧
  (∀ s : State, s.Inv → s.phase ≠ 0x0#4 → s.msgLen = s.len)

/-- A length written to `MSG_LEN_LO` and `MSG_LEN_HI` while idle is held with its bits at and above `LEN_W` discarded, and reads of the two
registers return its two parts (R23, R94 to R96). -/
def Obligations.MsgLenReadsBack : Prop :=
  ∀ (lo hi : Word) (s : State), s.params.Valid → s.msgLen < 2 ^ s.params.lenW → s.phase = 0x0#4 →
    ∃ (t u : State) (lo' hi' : Word), exec (.wrMsgLenLo lo) s = .next t ∧ exec (.wrMsgLenHi hi) t = .next u ∧
      u.msgLen = (hi.toNat * 2 ^ 32 + lo.toNat) % 2 ^ s.params.lenW ∧
      exec .rdMsgLenLo u = .next { u with returned := .word lo' } ∧
      exec .rdMsgLenHi u = .next { u with returned := .word hi' } ∧
      hi'.toNat * 2 ^ 32 + lo'.toNat = (hi.toNat * 2 ^ 32 + lo.toNat) % 2 ^ s.params.lenW

/-- `RD_DIGESTk` returns `DIGESTk`; in a state that meets the invariant, while busy, after an error and whenever `VALID = 0`
(after reset too), that is zero (R98). -/
def Obligations.ReadDigest : Prop :=
  ∀ s : State,
    exec .rdDigest0 s = .next { s with returned := .word s.digest[0] } ∧
    exec .rdDigest1 s = .next { s with returned := .word s.digest[1] } ∧
    exec .rdDigest2 s = .next { s with returned := .word s.digest[2] } ∧
    exec .rdDigest3 s = .next { s with returned := .word s.digest[3] } ∧
    exec .rdDigest4 s = .next { s with returned := .word s.digest[4] } ∧
    (s.Inv → (s.phase ≠ 0x0#4 ∨ s.err ≠ 0#4 ∨ s.valid = false) → ∀ k : Fin 5, s.digest[k] = 0x00000000#32)

/-! ## Byte accesses -/

/-- `WR_MSG` below `MSG_CAP`: idle, the byte is stored and marked written and every other byte of `MSG` reads as before; busy, the
write is dropped (R99). -/
def Obligations.WriteMessageByte : Prop :=
  ∀ (a : Nat) (b : Byte) (s : State), a < s.params.msgCap →
    (s.phase = 0x0#4 →
      ∃ m : Memory, exec (.wrMsg a b) s = .next { s with mem := m } ∧ m.read a = some b ∧
        ∀ a', a' ≠ a → m.read a' = s.mem.read a') ∧
    (s.phase ≠ 0x0#4 → exec (.wrMsg a b) s = .next s)

/-- `RD_MSG` below `MSG_CAP` returns a written byte and faults with `UNWRITTEN_MSG_READ` on one nothing has written, in every
`PHASE` (R100). -/
def Obligations.ReadMessageByte : Prop :=
  ∀ (a : Nat) (s : State), a < s.params.msgCap →
    (∀ b, s.mem.read a = some b → exec (.rdMsg a) s = .next { s with returned := .byte b }) ∧
    (s.mem.read a = none → exec (.rdMsg a) s = .fault .unwrittenMsgRead)

/-- `RD_OUT` returns byte `i mod 4`, most significant first, of `DIGEST(i div 4)` (R101); in a state that meets the invariant,
while busy, after an error and whenever `VALID = 0`, that is zero. -/
def Obligations.ReadOutputByte : Prop :=
  ∀ (i : Fin 20) (s : State),
    ∃ b : Byte, exec (.rdOut i.val) s = .next { s with returned := .byte b } ∧
      b = (s.digest[i.val / 4] >>> (24 - 8 * (i.val % 4))).setWidth 8 ∧
      (s.Inv → (s.phase ≠ 0x0#4 ∨ s.err ≠ 0#4 ∨ s.valid = false) → b = 0x00#8)

/-- No read has a side effect: whatever a read leaves differs from the state before it only in the data returned to the host, and
a second read of the same location then returns the same (R57). -/
def Obligations.ReadsHaveNoSideEffect : Prop :=
  ∀ (i : Instr) (off : BitVec 8) (a : Nat) (s t : State),
    i ∈ [.rdCtrl, .rdStatus, .rdMsgLenLo, .rdMsgLenHi, .rdDigest0, .rdDigest1, .rdDigest2, .rdDigest3, .rdDigest4,
      .rdRsvd off, .rdMsg a, .rdOut a] →
    exec i s = .next t → t = { s with returned := t.returned } ∧ exec i t = .next t

/-! ## Micro-steps -/

/-- `INIT` loads the initial accumulator of R112 and goes to `PAD` (R111). -/
def Obligations.InitLoadsTheInitialAccumulator : Prop :=
  ∀ s : State,
    exec .init s = .next
      { s with
        h := #v[0x67452301#32, 0xEFCDAB89#32, 0x98BADCFE#32, 0x10325476#32, 0xC3D2E1F0#32],
        marks := { s.marks with h := true }, phase := 0x2#4 }

/-- `PAD`: with `F` the length rounded down to a multiple of 64, `T` the rest and `P` the region's size, it builds the tail, the
marker, the zeros, the big-endian bit length in the last eight bytes of the region and zeros beyond it; a tail byte nothing has
written faults (R133). -/
def Obligations.PadBuildsThePaddedRegion : Prop :=
  ∀ (s : State) (f t p : Nat), f = s.len / 64 * 64 → t = s.len - f → p = (if t ≤ 55 then 64 else 128) →
    (∀ tail : List Byte, tail.length = t → (∀ k, k < t → s.mem.read (f + k) = tail[k]?) →
      ∃ scr : Vector Byte 128,
        exec .pad s = .next
          { s with
            plan := ⟨f, BitVec.ofNat 6 t, BitVec.ofNat 8 p⟩, scr := scr,
            marks := { s.marks with plan := true, scr := true }, phase := 0x3#4 } ∧
        ∀ i : Fin 128,
          scr[i] =
            if i.val < t then tail.getD i.val 0x00#8
            else if i.val = t then 0x80#8
            else if i.val < p - 8 then 0x00#8
            else if i.val < p then (BitVec.ofNat 64 (8 * s.len) >>> (8 * (7 - (i.val - (p - 8))))).setWidth 8
            else 0x00#8) ∧
    ((∃ k, k < t ∧ s.mem.read (f + k) = none) → exec .pad s = .fault .unwrittenMsgRead)

/-- `CHECK`: a consistent plan selects the first block, `MSG` at 0 if there is a full block and else `SCR` at 0, and goes to
`LOAD`; an inconsistent one ends with `PADDING_CONSISTENCY`, `STATUS` reading `0x00000012` (R137, R136, R114, R181). -/
def Obligations.CheckValidatesThePlan : Prop :=
  ∀ (s : State) (l f t p : Nat), s.marks.plan = true → l = s.len → f = s.plan.f → t = s.plan.t.toNat →
    p = s.plan.p.toNat →
    (f % 64 = 0 ∧ f + t = l ∧ t ≤ 63 ∧ (p = 64 ∨ p = 128) ∧ t + 1 + 8 ≤ p ∧ p - (t + 1 + 8) ≤ 63 ∧ (f + p) % 64 = 0 →
      exec .check s = .next
        { s with
          block := if 0 < f then ⟨.msg, 0⟩ else ⟨.scr, 0⟩, marks := { s.marks with block := true }, phase := 0x4#4 }) ∧
    (¬ (f % 64 = 0 ∧ f + t = l ∧ t ≤ 63 ∧ (p = 64 ∨ p = 128) ∧ t + 1 + 8 ≤ p ∧ p - (t + 1 + 8) ≤ 63 ∧
        (f + p) % 64 = 0) →
      ∃ u, exec .check s = .next u ∧ u.statusWord = 0x00000012#32 ∧
        u = { s with
          digest := #v[0#32, 0#32, 0#32, 0#32, 0#32], done := true, valid := false, err := 1#4, phase := 0x0#4 })

/-- The check never fails on what `PAD` writes, for every length, and no step of a state that meets the invariant raises
`PADDING_CONSISTENCY` (R138). -/
def Obligations.CheckNeverFailsAfterPad : Prop :=
  (∀ s t : State, exec .pad s = .next t →
    ∃ u, exec .check t = .next u ∧ u.phase = 0x4#4 ∧ u.err = s.err ∧ u.digest = s.digest) ∧
  (∀ s t : State, s.Inv → s.err ≠ 1#4 → step s = .next t → t.err ≠ 1#4)

/-- `LOAD` from `MSG` in place or from `SCR`: sixteen big-endian words, the other words unchanged, the working registers seeded
from the accumulator, `t = 16`; an unwritten `MSG` byte faults (R158). -/
def Obligations.LoadReadsOneBlock : Prop :=
  ∀ s : State, s.marks.block = true → s.marks.h = true →
    (∀ bytes : Vector Byte 64,
      (s.block.src = .msg ∧ ∀ k : Fin 64, s.mem.read (s.block.off + k.val) = some bytes[k]) ∨
      (s.block.src = .scr ∧ s.marks.scr = true ∧ s.block.off + 64 ≤ 128 ∧
        ∀ k : Fin 64, s.scr[s.block.off + k.val]? = some bytes[k]) →
      ∃ (w : Vector Word 80) (m : Vector Bool 80),
        exec .load s = .next
          { s with
            w := w, regs := ⟨s.h[0], s.h[1], s.h[2], s.h[3], s.h[4]⟩, t := 16#7,
            marks := { s.marks with regs := true, w := m }, phase := 0x5#4 } ∧
        (∀ j : Fin 16, m[j.val] = true ∧
          w[j.val] = (bytes[4 * j.val] ++ bytes[4 * j.val + 1] ++ bytes[4 * j.val + 2] ++ bytes[4 * j.val + 3] : Word)) ∧
        (∀ j : Fin 80, 16 ≤ j.val → w[j] = s.w[j] ∧ m[j] = s.marks.w[j])) ∧
    (s.block.src = .msg → (∃ k, k < 64 ∧ s.mem.read (s.block.off + k) = none) → exec .load s = .fault .unwrittenMsgRead)

/-- `EXPAND` at `t` in `16..79`: word `t` becomes the rotated exclusive or of the words 3, 8, 14 and 16 before it, every other word
is unchanged, `t` advances, and after 79 it is 0 and the phase `ROUND` (R159). -/
def Obligations.ExpandComputesOneWord : Prop :=
  ∀ (s : State) (k : Fin 80), k.val = s.t.toNat → 16 ≤ k.val →
    s.marks.w[k.val - 3] = true → s.marks.w[k.val - 8] = true → s.marks.w[k.val - 14] = true →
    s.marks.w[k.val - 16] = true →
    exec .expand s = .next
      { s with
        w := s.w.set k.val
          ((s.w[k.val - 3] ^^^ s.w[k.val - 8] ^^^ s.w[k.val - 14] ^^^ s.w[k.val - 16]).rotateLeft 1),
        marks := { s.marks with w := s.marks.w.set k.val true },
        t := if k.val = 79 then 0#7 else s.t + 1#7, phase := if k.val = 79 then 0x6#4 else s.phase }

/-- The four `ROUND` rows: the simultaneous assignment of R160, with the row's round function and constant, `t` advanced and the
phase `ACCUM` after 79 (R160, R157, R163). -/
def Obligations.RoundPerformsTheAssignment : Prop :=
  ∀ (s : State) (k : Fin 80) (a b c d e : Word), k.val = s.t.toNat → s.regs = ⟨a, b, c, d, e⟩ →
    s.marks.regs = true → s.marks.w[k] = true →
    (k.val ≤ 19 →
      exec .round0019 s = .next
        { s with
          regs := ⟨a.rotateLeft 5 + (d ^^^ (b &&& (c ^^^ d))) + e + 0x5A827999#32 + s.w[k], a, b.rotateLeft 30, c, d⟩,
          t := s.t + 1#7 }) ∧
    (20 ≤ k.val → k.val ≤ 39 →
      exec .round2039 s = .next
        { s with
          regs := ⟨a.rotateLeft 5 + (b ^^^ c ^^^ d) + e + 0x6ED9EBA1#32 + s.w[k], a, b.rotateLeft 30, c, d⟩,
          t := s.t + 1#7 }) ∧
    (40 ≤ k.val → k.val ≤ 59 →
      exec .round4059 s = .next
        { s with
          regs := ⟨a.rotateLeft 5 + ((b &&& c) + (d &&& (b ^^^ c))) + e + 0x8F1BBCDC#32 + s.w[k], a, b.rotateLeft 30, c, d⟩,
          t := s.t + 1#7 }) ∧
    (60 ≤ k.val → k.val ≤ 79 →
      exec .round6079 s = .next
        { s with
          regs := ⟨a.rotateLeft 5 + (b ^^^ c ^^^ d) + e + 0xCA62C1D6#32 + s.w[k], a, b.rotateLeft 30, c, d⟩,
          t := s.t + 1#7, phase := if k.val = 79 then 0x7#4 else s.phase })

/-- `ACCUM` adds the working registers to the accumulator word by word and chooses the next block: the next full block of `MSG`,
the first of `SCR`, the second of `SCR` when `P = 128`, or `SERIAL` (R161, R115). That `OFF` holds this 64 at
`LEN_W = 6` too, where R33 gives it 6 bits, is the model's choice (log entry 21). -/
def Obligations.AccumAddsAndChoosesTheNextBlock : Prop :=
  ∀ (s : State) (h : Vector Word 5),
    s.marks.h = true → s.marks.regs = true → s.marks.block = true → s.marks.plan = true →
    h = #v[s.h[0] + s.regs.a, s.h[1] + s.regs.b, s.h[2] + s.regs.c, s.h[3] + s.regs.d, s.h[4] + s.regs.e] →
    (s.block.src = .msg → s.block.off + 64 < s.plan.f →
      exec .accum s = .next { s with h := h, block := ⟨.msg, s.block.off + 64⟩, phase := 0x4#4 }) ∧
    (s.block.src = .msg → s.block.off + 64 = s.plan.f →
      exec .accum s = .next { s with h := h, block := ⟨.scr, 0⟩, phase := 0x4#4 }) ∧
    (s.block = ⟨.scr, 0⟩ → s.plan.p = 128#8 →
      exec .accum s = .next { s with h := h, block := ⟨.scr, 64⟩, phase := 0x4#4 }) ∧
    (s.block = ⟨.scr, 0⟩ → s.plan.p = 64#8 → exec .accum s = .next { s with h := h, phase := 0x8#4 }) ∧
    (s.block = ⟨.scr, 64⟩ → exec .accum s = .next { s with h := h, phase := 0x8#4 })

/-- `SERIAL` publishes the accumulator in the digest registers and in `OUT`, most significant byte first, and ends the operation,
in one step: `STATUS` reads `0x00000006` (R116). -/
def Obligations.SerialPublishesTheDigest : Prop :=
  ∀ s : State, s.marks.h = true →
    ∃ t, exec .serial s = .next t ∧
      t = { s with digest := s.h, done := true, valid := true, err := 0#4, phase := 0x0#4 } ∧
      t.statusWord = 0x00000006#32 ∧
      ∀ k : Fin 20, outByte t.digest k.val = (s.h[k.val / 4] >>> (24 - 8 * (k.val % 4))).setWidth 8

/-- A micro-step that reads an internal item unwritten since reset faults with `UNWRITTEN_INTERNAL_READ` (R188). A `LOAD` may read an
unwritten byte of `MSG` as well, for which R188 gives `UNWRITTEN_MSG_READ`; that the marks of `SRC`, `OFF` and `H` are looked at first
is the model's choice (log entry 14). -/
def Obligations.UnwrittenInternalReadFaults : Prop :=
  ∀ s : State,
    (s.marks.h = false → exec .serial s = .fault .unwrittenInternalRead) ∧
    (s.marks.plan = false → exec .check s = .fault .unwrittenInternalRead) ∧
    (s.marks.h = false ∨ s.marks.block = false → exec .load s = .fault .unwrittenInternalRead) ∧
    (s.marks.block = true → s.marks.h = true → s.block.src = .scr → s.block.off + 64 ≤ 128 → s.marks.scr = false →
      exec .load s = .fault .unwrittenInternalRead) ∧
    (∀ k : Fin 80, k.val = s.t.toNat → 16 ≤ k.val →
      s.marks.w[k.val - 3] = false ∨ s.marks.w[k.val - 8] = false ∨ s.marks.w[k.val - 14] = false ∨
        s.marks.w[k.val - 16] = false →
      exec .expand s = .fault .unwrittenInternalRead) ∧
    (∀ k : Fin 80, k.val = s.t.toNat → s.marks.regs = false ∨ s.marks.w[k] = false →
      (k.val ≤ 19 → exec .round0019 s = .fault .unwrittenInternalRead) ∧
      (20 ≤ k.val → k.val ≤ 39 → exec .round2039 s = .fault .unwrittenInternalRead) ∧
      (40 ≤ k.val → k.val ≤ 59 → exec .round4059 s = .fault .unwrittenInternalRead) ∧
      (60 ≤ k.val → exec .round6079 s = .fault .unwrittenInternalRead)) ∧
    (s.marks.h = false ∨ s.marks.regs = false ∨ s.marks.block = false ∨ s.marks.plan = false →
      exec .accum s = .fault .unwrittenInternalRead)

/-! ## Words -/

/-- The rotation by shifts, and its bits: bit `i` of `rotl(x, n)` is bit `(i - n) mod 32` of `x` (R151). -/
def Obligations.RotationMovesEveryBit : Prop :=
  ∀ (x : Word) (n i : Nat), 1 ≤ n → n ≤ 31 → i < 32 →
    rotl x n = (x <<< n ||| x >>> (32 - n)) ∧ (rotl x n).getLsbD i = x.getLsbD ((i + 32 - n) % 32)

/-- The round function of rounds 0 to 19 selects, bit by bit, `c` where `b` is 1 and `d` where `b` is 0 (R153). -/
def Obligations.ChooseFunctionSelects : Prop :=
  ∀ (b c d : Word) (i : Nat),
    fChoose b c d = d ^^^ (b &&& (c ^^^ d)) ∧
    (fChoose b c d).getLsbD i = if b.getLsbD i then c.getLsbD i else d.getLsbD i

/-- The round function of rounds 40 to 59 never carries: it is the bitwise majority (R155). -/
def Obligations.MajorityFunctionNeverCarries : Prop :=
  ∀ b c d : Word,
    fMajority b c d = (b &&& c) + (d &&& (b ^^^ c)) ∧
    fMajority b c d = (b &&& c) ||| (d &&& (b ^^^ c)) ∧
    fMajority b c d = (b &&& c) ||| (b &&& d) ||| (c &&& d)

/-- A word is made of four bytes most significant first, a value is serialized most significant byte first, and words and their four
bytes determine each other (R51, R52). -/
def Obligations.BigEndianBytesAndWords : Prop :=
  (∀ b0 b1 b2 b3 : Byte, be32 b0 b1 b2 b3 = (b0 ++ b1 ++ b2 ++ b3 : Word)) ∧
  (∀ (wd n k : Nat) (v : BitVec wd), k < n → (bytesBe v n)[k]? = some ((v >>> (8 * (n - 1 - k))).setWidth 8)) ∧
  (∀ (wd n : Nat) (v : BitVec wd), (bytesBe v n).length = n) ∧
  (∀ (x : Vector Byte 64) (j : Fin 16),
    blockWord x.toList j.val = (x[4 * j.val] ++ x[4 * j.val + 1] ++ x[4 * j.val + 2] ++ x[4 * j.val + 3] : Word)) ∧
  (∀ b0 b1 b2 b3 : Byte, bytesBe (be32 b0 b1 b2 b3) 4 = [b0, b1, b2, b3]) ∧
  (∀ w : Word, ∃ b0 b1 b2 b3, bytesBe w 4 = [b0, b1, b2, b3] ∧ be32 b0 b1 b2 b3 = w)

/-! ## The whole machine -/

/-- The invariant holds after reset. -/
def Obligations.InvariantHoldsAtReset : Prop := State.reset.Inv

/-- Every step keeps the invariant: legal parameters and status, memory in canonical form and inside `MSG_CAP`, `MSG_LEN`, `L` and
`F` inside `LEN_W` bits and `OFF` too but for the value log entry 21 names, a digest that reads zero unless valid, and everything the next micro-step reads already written (R22, R24, R35, R39,
R78, R96). -/
def Obligations.EveryStepKeepsTheInvariant : Prop :=
  ∀ s t : State, s.Inv → step s = .next t → t.Inv

/-- In a state that meets the invariant the only fault is the read of an unwritten `MSG` byte: an unwritten internal item, a bad
phase and a bad block are never met (R39, R78, R188). -/
def Obligations.OnlyUnwrittenMessageBytesFault : Prop :=
  ∀ (s : State) (f : Fault), s.Inv → step s = .fault f → f = .unwrittenMsgRead

/-- Every micro-step of a state that meets the invariant is enabled once the message has been written: the engine never waits and
never stops (R110, R119). -/
def Obligations.EveryMicroStepIsEnabled : Prop :=
  ∀ s : State, s.Inv → s.inbox = [] → (∀ a, a < s.len → s.mem.read a ≠ none) → ∃ t, step s = .next t

/-- `STATUS` takes only six values in states that meet the invariant, with the implications R22 gives. -/
def Obligations.StatusTakesSixValues : Prop :=
  ∀ s : State, s.Inv →
    s.statusWord ∈ [0x00000000#32, 0x00000001#32, 0x00000006#32, 0x00000012#32, 0x00000022#32, 0x00000032#32] ∧
    (s.phase ≠ 0x0#4 → s.done = false ∧ s.valid = false ∧ s.err = 0#4) ∧
    (s.valid = true → s.done = true ∧ s.err = 0#4) ∧
    (s.err ≠ 0#4 → s.done = true ∧ s.valid = false) ∧ s.err.toNat < 4

/-- The digest registers are written only by an accepted `START` and by an error ending, with zero, and by `SERIAL`, with the
accumulator; nothing else writes them (R24). -/
def Obligations.OnlyStartErrorsAndSerialWriteTheDigest : Prop :=
  ∀ (i : Instr) (s t : State), exec i s = .next t → t.digest ≠ s.digest →
    (t.digest = #v[0#32, 0#32, 0#32, 0#32, 0#32] ∧
      ((s.phase = 0x0#4 ∧ t.phase = 0x1#4 ∧ t.len = s.msgLen) ∨ (t.phase = 0x0#4 ∧ t.done = true ∧ t.err ≠ 0#4)) ∧
      ((∃ r, i = .start r) ∨ (∃ v, i = .wrCtrl v) ∨ i = .check ∨
        ∃ r, i ∈ [.rsvdOp2 r, .rsvdOp3 r, .rsvdOp4 r, .rsvdOp5 r, .rsvdOp6 r, .rsvdOp7 r, .rsvdOp8 r, .rsvdOp9 r,
          .rsvdOpA r, .rsvdOpB r, .rsvdOpC r, .rsvdOpD r, .rsvdOpE r, .rsvdOpF r])) ∨
    (i = .serial ∧ t.digest = s.h)

/-- Only `WR_MSG` changes what a byte of `MSG` reads as, and only the byte it names; the engine only reads `MSG` (R35, R99). -/
def Obligations.OnlyMessageWritesChangeMemory : Prop :=
  ∀ (i : Instr) (s t : State) (a : Nat), exec i s = .next t → (∀ b, i ≠ .wrMsg a b) → t.mem.read a = s.mem.read a

/-- While the engine is busy every host access leaves the whole state as it was but for the data returned to the host (R57, R93,
R94, R95, R99). -/
def Obligations.HostCannotDisturbABusyEngine : Prop :=
  ∀ (i : Instr) (s t : State), i.isMicroStep = false → s.phase ≠ 0x0#4 → exec i s = .next t →
    t = { s with returned := t.returned }

/-- A host access and a micro-step of a busy engine: the micro-step gives the same state after the access as without it, but for the data
returned to the host; and where the micro-step leaves the engine busy, the access after it gives that same state, so the two commute
(R103, R120). After a micro-step that ends the operation the order is seen, as program P4 of spec/95_test_vectors.md shows. -/
def Obligations.HostAccessCommutesWithMicroStep : Prop :=
  ∀ (i m : Instr) (s t u : State), i.isMicroStep = false → m.isMicroStep = true → s.phase ≠ 0x0#4 →
    exec i s = .next t → exec m s = .next u →
    exec m t = .next { u with returned := t.returned } ∧
    (u.phase ≠ 0x0#4 → exec i u = .next { u with returned := t.returned })

/-- The end of an operation is published in one event: the step that sets `DONE` also leaves the engine idle and the digest in its
final value, zero with an error code or the accumulator with `VALID` (R64). -/
def Obligations.EndIsPublishedInOneStep : Prop :=
  ∀ s t : State, s.Inv → s.done = false → step s = .next t → t.done = true →
    t.phase = 0x0#4 ∧
    ((t.valid = true ∧ t.err = 0#4 ∧ s.phase = 0x8#4 ∧ t.digest = s.h) ∨
      (t.valid = false ∧ t.err ≠ 0#4 ∧ t.digest = #v[0#32, 0#32, 0#32, 0#32, 0#32]))

/-- The bulk region followed by the padded region is the padded message, the least multiple of 64 bytes that holds the message, the
marker and the length field (R139). -/
def Obligations.PaddedRegionCompletesTheMessage : Prop :=
  ∀ (s t : State) (m : List Byte), s.len = m.length → m.length < 2 ^ 61 →
    (∀ k, k < m.length → s.mem.read k = m[k]?) → exec .pad s = .next t →
    m.take t.plan.f ++ t.scr.toList.take t.plan.p.toNat = padMessage m ∧
    (padMessage m).length = t.plan.f + t.plan.p.toNat ∧ (padMessage m).length % 64 = 0 ∧
    m.length + 9 ≤ (padMessage m).length ∧ (padMessage m).length < m.length + 9 + 64

/-- `LOAD`, 64 `EXPAND`, 80 `ROUND` and `ACCUM` compute the whole-block function of the accumulator and the block, and change
neither the plan nor `SCR` nor `MSG` (R162). The block that follows is the one of R115, at `LEN_W = 6` too by the model's choice
(log entry 21). -/
def Obligations.OneBlockIsCompressed : Prop :=
  ∀ (s : State) (x : List Byte), s.Inv → s.inbox = [] → s.phase = 0x4#4 → readBlock s = .ok x →
    ∃ t, Host.Core.run core 146 s = .next t ∧ t.h = compress s.h x ∧
      t.plan = s.plan ∧ t.scr = s.scr ∧ t.mem = s.mem ∧ t.len = s.len ∧ t.inbox = [] ∧
      (t.phase = 0x4#4 ∧ nextBlock s.plan s.block = some (.block t.block) ∨
        t.phase = 0x8#4 ∧ nextBlock s.plan s.block = some .finished)

/-- A whole operation: an accepted `START` over a message held in `MSG` ends, after the engine's micro-steps, with
`STATUS = 0x00000006` and `OUT` the digest of the message (R117, with nothing scheduled meanwhile; at `LEN_W = 6` by the model's choice of log entry 21). -/
def Obligations.OperationPublishesTheDigest : Prop :=
  ∀ (s : State) (m : List Byte), s.params.Valid → s.phase = 0x0#4 → s.inbox = [] →
    s.msgLen = m.length → m.length ≤ s.params.msgCap → (∀ k, k < m.length → s.mem.read k = m[k]?) →
    ∃ s' t, exec (.start 0#28) s = .next s' ∧
      Host.Core.run core (4 + 146 * ((m.length + 8) / 64 + 1)) s' = .next t ∧
      t.statusWord = 0x00000006#32 ∧ (List.range 20).map (outByte t.digest) = sha1 m ∧ t.mem = s.mem

/-- An operation takes exactly `4 + 146 * N` micro-steps, `N = floor((L + 8) / 64) + 1`, and which one comes at each count: `INIT`,
`PAD` and `CHECK`, then for each block one `LOAD`, 64 `EXPAND`, 80 `ROUND` and one `ACCUM`, then `SERIAL`, and then the engine is
idle (R118; at `LEN_W = 6` by the model's choice of log entry 21). -/
def Obligations.OperationTakesCountedMicroSteps : Prop :=
  ∀ (s : State) (blocks n : Nat), s.params.Valid → s.phase = 0x0#4 → s.inbox = [] →
    s.msgLen ≤ s.params.msgCap → (∀ k, k < s.msgLen → s.mem.read k ≠ none) →
    blocks = (s.msgLen + 8) / 64 + 1 → n ≤ 4 + 146 * blocks →
    ∃ s' t, exec (.start 0#28) s = .next s' ∧ Host.Core.run core n s' = .next t ∧
      (n = 0 → t.phase = 0x1#4) ∧ (n = 1 → t.phase = 0x2#4) ∧ (n = 2 → t.phase = 0x3#4) ∧
      (3 ≤ n → n < 3 + 146 * blocks →
        ((n - 3) % 146 = 0 → t.phase = 0x4#4) ∧
        (1 ≤ (n - 3) % 146 → (n - 3) % 146 ≤ 64 → t.phase = 0x5#4 ∧ t.t.toNat = 15 + (n - 3) % 146) ∧
        (65 ≤ (n - 3) % 146 → (n - 3) % 146 ≤ 144 → t.phase = 0x6#4 ∧ t.t.toNat = (n - 3) % 146 - 65) ∧
        ((n - 3) % 146 = 145 → t.phase = 0x7#4)) ∧
      (n = 3 + 146 * blocks → t.phase = 0x8#4) ∧ (n = 4 + 146 * blocks → t.phase = 0x0#4)

/-- Whatever the host does meanwhile, short of a reset: when the engine is idle for the first time after an accepted `START` over a
message held in `MSG`, `STATUS` reads `0x00000006` and `OUT` is the digest of the message; and a run that no access stops comes
there within the length of the schedule and the count of micro-steps (R117 to R120). That bound rests on the model's form of a
schedule, finite and then the engine alone, which is its choice (log entries 1 and 19), and at
`LEN_W = 6` on that of log entry 21. -/
def Obligations.EveryScheduleGivesTheDigest : Prop :=
  ∀ (s s' : State) (m : List Byte), s.params.Valid → s.phase = 0x0#4 → Event.reset ∉ s.inbox →
    s.msgLen = m.length → m.length ≤ s.params.msgCap → (∀ k, k < m.length → s.mem.read k = m[k]?) →
    exec (.start 0#28) s = .next s' →
    (∀ n t, Host.Core.run core n s' = .next t → t.phase = 0x0#4 →
      (∀ k u, k < n → Host.Core.run core k s' = .next u → u.phase ≠ 0x0#4) →
      t.statusWord = 0x00000006#32 ∧ (List.range 20).map (outByte t.digest) = sha1 m) ∧
    (∀ t, Host.Core.run core (s.inbox.length + (4 + 146 * ((m.length + 8) / 64 + 1))) s' = .next t →
      ∃ k u, k ≤ s.inbox.length + (4 + 146 * ((m.length + 8) / 64 + 1)) ∧
        Host.Core.run core k s' = .next u ∧ u.phase = 0x0#4)

/-- An event of one engine of a platform reads and writes nothing of another: the others stay as they are, and what the engine does
depends on its own state alone (R69). Only a platform with an engine takes a step, and no step changes `N_ENGINES` (R12,
R192): these two rest on the model's form of a platform, a list of engines where a missing one is refused, which is its choice (log
entry 17). -/
def Obligations.EnginesShareNothing : Prop :=
  ∀ (p q p' : Platform) (j k : Nat), p.step k = .next p' →
    p.Valid ∧ p'.nEngines = p.nEngines ∧
    (j ≠ k → p'.engines[j]? = p.engines[j]?) ∧
    (q.engines[k]? = p.engines[k]? → ∃ q', q.step k = .next q' ∧ q'.engines[k]? = p'.engines[k]?)
end

