-- ==== Sys2Proof/Laws/Memory.lean ====
section
/-! SUPPORT. The laws of the message memory: a read after a write, the canonical form, and runs of bytes. -/

namespace Sys2Proof.Machine

@[simp] theorem Memory.read_nil (a : Nat) : Memory.read [] a = none := rfl

theorem Memory.read_cons (k : Nat) (c : Byte) (rest : Memory) (a : Nat) :
    Memory.read ((k, c) :: rest) a = if k = a then some c else Memory.read rest a := rfl

theorem Memory.wf_nil : Memory.wf [] := List.Pairwise.nil

/-- Below the first listed address nothing is written. -/
theorem Memory.read_eq_none_of_lt {m : Memory} {a : Nat} (h : ∀ c ∈ m, a < c.1) : m.read a = none := by
  induction m with
  | nil => rfl
  | cons x rest ih =>
    obtain ⟨k, c⟩ := x
    have hk : a < k := h (k, c) (by simp)
    rw [Memory.read_cons, if_neg (by omega), ih fun c hc => h c (by simp [hc])]

/-- A read after a write to the same address gives the byte written. -/
theorem Memory.read_write_same (m : Memory) (a : Nat) (b : Byte) : (m.write a b).read a = some b := by
  induction m with
  | nil => simp [Memory.write, Memory.read_cons]
  | cons x rest ih =>
    obtain ⟨k, c⟩ := x
    by_cases h1 : a < k
    · simp [Memory.write, h1, Memory.read_cons]
    · by_cases h2 : a = k
      · simp [Memory.write, h2, Memory.read_cons]
      · simp [Memory.write, h1, h2, Memory.read_cons, ih, Ne.symm h2]

/-- A write leaves every other address alone. -/
theorem Memory.read_write_other (m : Memory) {a a' : Nat} (b : Byte) (h : a' ≠ a) :
    (m.write a b).read a' = m.read a' := by
  induction m with
  | nil => simp [Memory.write, Memory.read_cons, Ne.symm h]
  | cons x rest ih =>
    obtain ⟨k, c⟩ := x
    by_cases h1 : a < k
    · simp [Memory.write, h1, Memory.read_cons, Ne.symm h]
    · by_cases h2 : a = k
      · subst h2; simp [Memory.write, Memory.read_cons, Ne.symm h]
      · simp [Memory.write, h1, h2, Memory.read_cons, ih]

/-- The cells after a write are the written one and cells that were there. -/
theorem Memory.mem_write {m : Memory} {a : Nat} {b : Byte} {c : Host.Cell} (h : c ∈ m.write a b) :
    c = (a, b) ∨ c ∈ m := by
  induction m with
  | nil => simpa [Memory.write] using h
  | cons x rest ih =>
    obtain ⟨k, d⟩ := x
    by_cases h1 : a < k
    · simpa [Memory.write, h1] using h
    · by_cases h2 : a = k
      · simp [Memory.write, h2] at h
        rcases h with h | h
        · exact .inl (by simp [h, h2])
        · exact .inr (by simp [h])
      · simp [Memory.write, h1, h2] at h
        rcases h with h | h
        · exact .inr (by simp [h])
        · rcases ih h with h | h
          · exact .inl h
          · exact .inr (by simp [h])

/-- A write keeps the canonical form. -/
theorem Memory.write_wf {m : Memory} (h : m.wf) (a : Nat) (b : Byte) : (m.write a b).wf := by
  induction m with
  | nil => simp [Memory.write, Memory.wf]
  | cons x rest ih =>
    obtain ⟨k, d⟩ := x
    obtain ⟨hk, hr⟩ := List.pairwise_cons.mp h
    by_cases h1 : a < k
    · simp only [Memory.write, if_pos h1]
      refine List.pairwise_cons.mpr ⟨fun c hc => ?_, h⟩
      rcases List.mem_cons.mp hc with rfl | hc
      · exact h1
      · exact Nat.lt_trans h1 (hk c hc)
    · by_cases h2 : a = k
      · subst h2
        simp only [Memory.write, if_neg h1, if_true]
        exact List.pairwise_cons.mpr ⟨hk, hr⟩
      · simp only [Memory.write, if_neg h1, if_neg h2]
        refine List.pairwise_cons.mpr ⟨fun c hc => ?_, ih hr⟩
        rcases Memory.mem_write hc with rfl | hc
        · show k < a; omega
        · exact hk c hc

/-- A run of bytes is read exactly when each of its bytes is. -/
theorem Memory.readBytes_eq_some {m : Memory} {a n : Nat} {bs : List Byte} :
    m.readBytes a n = some bs ↔ bs.length = n ∧ ∀ i, i < n → m.read (a + i) = bs[i]? := by
  induction n generalizing a bs with
  | zero =>
    constructor
    · intro h
      simp only [Memory.readBytes, Option.some.injEq] at h
      subst h; simp
    · rintro ⟨h, -⟩
      simp [Memory.readBytes, List.length_eq_zero_iff.mp h]
  | succ n ih =>
    constructor
    · intro h
      unfold Memory.readBytes at h
      split at h
      · rename_i b bs' hb hbs
        obtain ⟨hl, hr⟩ := ih.mp hbs
        obtain rfl := Option.some.inj h
        refine ⟨by simp [hl], fun i hi => ?_⟩
        cases i with
        | zero => simpa using hb
        | succ i => simpa [Nat.add_assoc, Nat.add_comm 1 i] using hr i (by omega)
      · cases h
    · rintro ⟨hl, hr⟩
      cases bs with
      | nil => simp at hl
      | cons b bs' =>
        have hb : m.read a = some b := by simpa using hr 0 (by omega)
        have hbs : m.readBytes (a + 1) n = some bs' :=
          ih.mpr ⟨by simpa using hl, fun i hi => by
            simpa [Nat.add_assoc, Nat.add_comm 1 i] using hr (i + 1) (by omega)⟩
        simp [Memory.readBytes, hb, hbs]

/-- A run with an unwritten byte is not read. -/
theorem Memory.readBytes_eq_none {m : Memory} {a n : Nat} :
    m.readBytes a n = none ↔ ∃ i, i < n ∧ m.read (a + i) = none := by
  induction n generalizing a with
  | zero => simp [Memory.readBytes]
  | succ n ih =>
    constructor
    · intro h
      unfold Memory.readBytes at h
      split at h
      · cases h
      · rename_i hno
        cases hb : m.read a with
        | none => exact ⟨0, by omega, by simpa using hb⟩
        | some b =>
          cases hbs : m.readBytes (a + 1) n with
          | none =>
            obtain ⟨i, hi, hi'⟩ := ih.mp hbs
            exact ⟨i + 1, by omega, by simpa [Nat.add_assoc, Nat.add_comm 1 i] using hi'⟩
          | some bs => exact absurd hbs (hno b bs hb)
    · rintro ⟨i, hi, hi'⟩
      unfold Memory.readBytes
      split
      · rename_i b bs hb hbs
        cases i with
        | zero => simp [hb] at hi'
        | succ i =>
          have : m.readBytes (a + 1) n = none :=
            ih.mpr ⟨i, by omega, by simpa [Nat.add_assoc, Nat.add_comm 1 i] using hi'⟩
          simp [hbs] at this
      · rfl

end Sys2Proof.Machine
end

