-- ==== Sys2Proof/Laws/Operands.lean ====
section
/-! SUPPORT. The laws of the plan and of the length register: what their numbers are, and that they stay in range. -/

namespace Sys2Proof.Machine

/-- `T` is the length modulo 64 (R130). -/
theorem tailLen_eq (len : Nat) : tailLen len = len % 64 := by
  unfold tailLen fullEnd; omega

/-- `P` by the remainder of the length (R131). -/
theorem paddedSize_eq (len : Nat) : paddedSize len = if len % 64 ≤ 55 then 64 else 128 := by
  rw [paddedSize, tailLen_eq]

/-- The `T` that `PAD` stores is not truncated (R32). -/
theorem planOf_t (len : Nat) : (planOf len).t.toNat = len % 64 := by
  simp [planOf, tailLen_eq]

/-- The `P` that `PAD` stores is not truncated (R32). -/
theorem planOf_p (len : Nat) : (planOf len).p.toNat = paddedSize len := by
  have h : paddedSize len < 256 := by rw [paddedSize_eq]; split <;> decide
  simp only [planOf, BitVec.toNat_ofNat]; exact Nat.mod_eq_of_lt h

/-- A write of `MSG_LEN_LO` stays within `LEN_W` bits (R94). -/
theorem withLenLo_lt (p : Params) (n : Nat) (v : Word) (hn : n < 2 ^ p.lenW) : withLenLo p n v < 2 ^ p.lenW := by
  unfold withLenLo
  split
  · next h =>
    obtain ⟨k, hk⟩ := Nat.exists_eq_add_of_le h
    rw [hk, Nat.pow_add] at hn ⊢
    have hd : n / 2 ^ 32 < 2 ^ k := Nat.div_lt_of_lt_mul hn
    have hv := v.isLt
    nlinarith
  · exact Nat.mod_lt _ (Nat.two_pow_pos _)

/-- A write of `MSG_LEN_HI` stays within `LEN_W` bits (R95). -/
theorem withLenHi_lt (p : Params) (n : Nat) (v : Word) (hn : n < 2 ^ p.lenW) : withLenHi p n v < 2 ^ p.lenW := by
  unfold withLenHi
  split
  · next h =>
    obtain ⟨k, hk⟩ := Nat.exists_eq_add_of_le h.le
    rw [hk, Nat.pow_add, Nat.add_sub_cancel_left]
    have h1 := Nat.mod_lt v.toNat (Nat.two_pow_pos k)
    have h2 := Nat.mod_lt n (Nat.two_pow_pos 32)
    nlinarith
  · exact hn

end Sys2Proof.Machine
end

