-- ==== Sys2Proof/Laws/State.lean ====
section
/-! SUPPORT. What each named update of Machine/Ops.lean leaves in each field of the state: one lemma per field per update, so
that no proof unfolds a record update. -/

namespace Sys2Proof.Machine

variable (s : State)

/-! ### `setInbox` -/

@[simp] theorem State.setInbox_params (es : List Event) : (s.setInbox es).params = s.params := rfl
@[simp] theorem State.setInbox_done (es : List Event) : (s.setInbox es).done = s.done := rfl
@[simp] theorem State.setInbox_valid (es : List Event) : (s.setInbox es).valid = s.valid := rfl
@[simp] theorem State.setInbox_err (es : List Event) : (s.setInbox es).err = s.err := rfl
@[simp] theorem State.setInbox_msgLen (es : List Event) : (s.setInbox es).msgLen = s.msgLen := rfl
@[simp] theorem State.setInbox_digest (es : List Event) : (s.setInbox es).digest = s.digest := rfl
@[simp] theorem State.setInbox_h (es : List Event) : (s.setInbox es).h = s.h := rfl
@[simp] theorem State.setInbox_regs (es : List Event) : (s.setInbox es).regs = s.regs := rfl
@[simp] theorem State.setInbox_w (es : List Event) : (s.setInbox es).w = s.w := rfl
@[simp] theorem State.setInbox_t (es : List Event) : (s.setInbox es).t = s.t := rfl
@[simp] theorem State.setInbox_phase (es : List Event) : (s.setInbox es).phase = s.phase := rfl
@[simp] theorem State.setInbox_len (es : List Event) : (s.setInbox es).len = s.len := rfl
@[simp] theorem State.setInbox_plan (es : List Event) : (s.setInbox es).plan = s.plan := rfl
@[simp] theorem State.setInbox_block (es : List Event) : (s.setInbox es).block = s.block := rfl
@[simp] theorem State.setInbox_scr (es : List Event) : (s.setInbox es).scr = s.scr := rfl
@[simp] theorem State.setInbox_marks (es : List Event) : (s.setInbox es).marks = s.marks := rfl
@[simp] theorem State.setInbox_mem (es : List Event) : (s.setInbox es).mem = s.mem := rfl
@[simp] theorem State.setInbox_returned (es : List Event) : (s.setInbox es).returned = s.returned := rfl
@[simp] theorem State.setInbox_inbox (es : List Event) : (s.setInbox es).inbox = es := rfl

/-! ### `giveBack` -/

@[simp] theorem State.giveBack_params (r : Returned) : (s.giveBack r).params = s.params := rfl
@[simp] theorem State.giveBack_done (r : Returned) : (s.giveBack r).done = s.done := rfl
@[simp] theorem State.giveBack_valid (r : Returned) : (s.giveBack r).valid = s.valid := rfl
@[simp] theorem State.giveBack_err (r : Returned) : (s.giveBack r).err = s.err := rfl
@[simp] theorem State.giveBack_msgLen (r : Returned) : (s.giveBack r).msgLen = s.msgLen := rfl
@[simp] theorem State.giveBack_digest (r : Returned) : (s.giveBack r).digest = s.digest := rfl
@[simp] theorem State.giveBack_h (r : Returned) : (s.giveBack r).h = s.h := rfl
@[simp] theorem State.giveBack_regs (r : Returned) : (s.giveBack r).regs = s.regs := rfl
@[simp] theorem State.giveBack_w (r : Returned) : (s.giveBack r).w = s.w := rfl
@[simp] theorem State.giveBack_t (r : Returned) : (s.giveBack r).t = s.t := rfl
@[simp] theorem State.giveBack_phase (r : Returned) : (s.giveBack r).phase = s.phase := rfl
@[simp] theorem State.giveBack_len (r : Returned) : (s.giveBack r).len = s.len := rfl
@[simp] theorem State.giveBack_plan (r : Returned) : (s.giveBack r).plan = s.plan := rfl
@[simp] theorem State.giveBack_block (r : Returned) : (s.giveBack r).block = s.block := rfl
@[simp] theorem State.giveBack_scr (r : Returned) : (s.giveBack r).scr = s.scr := rfl
@[simp] theorem State.giveBack_marks (r : Returned) : (s.giveBack r).marks = s.marks := rfl
@[simp] theorem State.giveBack_mem (r : Returned) : (s.giveBack r).mem = s.mem := rfl
@[simp] theorem State.giveBack_returned (r : Returned) : (s.giveBack r).returned = r := rfl
@[simp] theorem State.giveBack_inbox (r : Returned) : (s.giveBack r).inbox = s.inbox := rfl

/-! ### `setMsgLen` -/

@[simp] theorem State.setMsgLen_params (n : Nat) : (s.setMsgLen n).params = s.params := rfl
@[simp] theorem State.setMsgLen_done (n : Nat) : (s.setMsgLen n).done = s.done := rfl
@[simp] theorem State.setMsgLen_valid (n : Nat) : (s.setMsgLen n).valid = s.valid := rfl
@[simp] theorem State.setMsgLen_err (n : Nat) : (s.setMsgLen n).err = s.err := rfl
@[simp] theorem State.setMsgLen_msgLen (n : Nat) : (s.setMsgLen n).msgLen = n := rfl
@[simp] theorem State.setMsgLen_digest (n : Nat) : (s.setMsgLen n).digest = s.digest := rfl
@[simp] theorem State.setMsgLen_h (n : Nat) : (s.setMsgLen n).h = s.h := rfl
@[simp] theorem State.setMsgLen_regs (n : Nat) : (s.setMsgLen n).regs = s.regs := rfl
@[simp] theorem State.setMsgLen_w (n : Nat) : (s.setMsgLen n).w = s.w := rfl
@[simp] theorem State.setMsgLen_t (n : Nat) : (s.setMsgLen n).t = s.t := rfl
@[simp] theorem State.setMsgLen_phase (n : Nat) : (s.setMsgLen n).phase = s.phase := rfl
@[simp] theorem State.setMsgLen_len (n : Nat) : (s.setMsgLen n).len = s.len := rfl
@[simp] theorem State.setMsgLen_plan (n : Nat) : (s.setMsgLen n).plan = s.plan := rfl
@[simp] theorem State.setMsgLen_block (n : Nat) : (s.setMsgLen n).block = s.block := rfl
@[simp] theorem State.setMsgLen_scr (n : Nat) : (s.setMsgLen n).scr = s.scr := rfl
@[simp] theorem State.setMsgLen_marks (n : Nat) : (s.setMsgLen n).marks = s.marks := rfl
@[simp] theorem State.setMsgLen_mem (n : Nat) : (s.setMsgLen n).mem = s.mem := rfl
@[simp] theorem State.setMsgLen_returned (n : Nat) : (s.setMsgLen n).returned = s.returned := rfl
@[simp] theorem State.setMsgLen_inbox (n : Nat) : (s.setMsgLen n).inbox = s.inbox := rfl

/-! ### `setMsgByte` -/

@[simp] theorem State.setMsgByte_params (a : Nat) (b : Byte) : (s.setMsgByte a b).params = s.params := rfl
@[simp] theorem State.setMsgByte_done (a : Nat) (b : Byte) : (s.setMsgByte a b).done = s.done := rfl
@[simp] theorem State.setMsgByte_valid (a : Nat) (b : Byte) : (s.setMsgByte a b).valid = s.valid := rfl
@[simp] theorem State.setMsgByte_err (a : Nat) (b : Byte) : (s.setMsgByte a b).err = s.err := rfl
@[simp] theorem State.setMsgByte_msgLen (a : Nat) (b : Byte) : (s.setMsgByte a b).msgLen = s.msgLen := rfl
@[simp] theorem State.setMsgByte_digest (a : Nat) (b : Byte) : (s.setMsgByte a b).digest = s.digest := rfl
@[simp] theorem State.setMsgByte_h (a : Nat) (b : Byte) : (s.setMsgByte a b).h = s.h := rfl
@[simp] theorem State.setMsgByte_regs (a : Nat) (b : Byte) : (s.setMsgByte a b).regs = s.regs := rfl
@[simp] theorem State.setMsgByte_w (a : Nat) (b : Byte) : (s.setMsgByte a b).w = s.w := rfl
@[simp] theorem State.setMsgByte_t (a : Nat) (b : Byte) : (s.setMsgByte a b).t = s.t := rfl
@[simp] theorem State.setMsgByte_phase (a : Nat) (b : Byte) : (s.setMsgByte a b).phase = s.phase := rfl
@[simp] theorem State.setMsgByte_len (a : Nat) (b : Byte) : (s.setMsgByte a b).len = s.len := rfl
@[simp] theorem State.setMsgByte_plan (a : Nat) (b : Byte) : (s.setMsgByte a b).plan = s.plan := rfl
@[simp] theorem State.setMsgByte_block (a : Nat) (b : Byte) : (s.setMsgByte a b).block = s.block := rfl
@[simp] theorem State.setMsgByte_scr (a : Nat) (b : Byte) : (s.setMsgByte a b).scr = s.scr := rfl
@[simp] theorem State.setMsgByte_marks (a : Nat) (b : Byte) : (s.setMsgByte a b).marks = s.marks := rfl
@[simp] theorem State.setMsgByte_mem (a : Nat) (b : Byte) : (s.setMsgByte a b).mem = s.mem.write a b := rfl
@[simp] theorem State.setMsgByte_returned (a : Nat) (b : Byte) : (s.setMsgByte a b).returned = s.returned := rfl
@[simp] theorem State.setMsgByte_inbox (a : Nat) (b : Byte) : (s.setMsgByte a b).inbox = s.inbox := rfl

/-! ### `raise` -/

@[simp] theorem State.raise_params (e : HwError) : (s.raise e).params = s.params := rfl
@[simp] theorem State.raise_done (e : HwError) : (s.raise e).done = true := rfl
@[simp] theorem State.raise_valid (e : HwError) : (s.raise e).valid = false := rfl
@[simp] theorem State.raise_err (e : HwError) : (s.raise e).err = errorCode e := rfl
@[simp] theorem State.raise_msgLen (e : HwError) : (s.raise e).msgLen = s.msgLen := rfl
@[simp] theorem State.raise_digest (e : HwError) : (s.raise e).digest = zeroDigest := rfl
@[simp] theorem State.raise_h (e : HwError) : (s.raise e).h = s.h := rfl
@[simp] theorem State.raise_regs (e : HwError) : (s.raise e).regs = s.regs := rfl
@[simp] theorem State.raise_w (e : HwError) : (s.raise e).w = s.w := rfl
@[simp] theorem State.raise_t (e : HwError) : (s.raise e).t = s.t := rfl
@[simp] theorem State.raise_phase (e : HwError) : (s.raise e).phase = Phase.idle := rfl
@[simp] theorem State.raise_len (e : HwError) : (s.raise e).len = s.len := rfl
@[simp] theorem State.raise_plan (e : HwError) : (s.raise e).plan = s.plan := rfl
@[simp] theorem State.raise_block (e : HwError) : (s.raise e).block = s.block := rfl
@[simp] theorem State.raise_scr (e : HwError) : (s.raise e).scr = s.scr := rfl
@[simp] theorem State.raise_marks (e : HwError) : (s.raise e).marks = s.marks := rfl
@[simp] theorem State.raise_mem (e : HwError) : (s.raise e).mem = s.mem := rfl
@[simp] theorem State.raise_returned (e : HwError) : (s.raise e).returned = s.returned := rfl
@[simp] theorem State.raise_inbox (e : HwError) : (s.raise e).inbox = s.inbox := rfl

/-! ### `accept` -/

@[simp] theorem State.accept_params : (s.accept).params = s.params := rfl
@[simp] theorem State.accept_done : (s.accept).done = false := rfl
@[simp] theorem State.accept_valid : (s.accept).valid = false := rfl
@[simp] theorem State.accept_err : (s.accept).err = 0#4 := rfl
@[simp] theorem State.accept_msgLen : (s.accept).msgLen = s.msgLen := rfl
@[simp] theorem State.accept_digest : (s.accept).digest = zeroDigest := rfl
@[simp] theorem State.accept_h : (s.accept).h = s.h := rfl
@[simp] theorem State.accept_regs : (s.accept).regs = s.regs := rfl
@[simp] theorem State.accept_w : (s.accept).w = s.w := rfl
@[simp] theorem State.accept_t : (s.accept).t = s.t := rfl
@[simp] theorem State.accept_phase : (s.accept).phase = Phase.init := rfl
@[simp] theorem State.accept_len : (s.accept).len = s.msgLen := rfl
@[simp] theorem State.accept_plan : (s.accept).plan = s.plan := rfl
@[simp] theorem State.accept_block : (s.accept).block = s.block := rfl
@[simp] theorem State.accept_scr : (s.accept).scr = s.scr := rfl
@[simp] theorem State.accept_marks : (s.accept).marks = s.marks := rfl
@[simp] theorem State.accept_mem : (s.accept).mem = s.mem := rfl
@[simp] theorem State.accept_returned : (s.accept).returned = s.returned := rfl
@[simp] theorem State.accept_inbox : (s.accept).inbox = s.inbox := rfl

/-! ### `resetEngine` -/

@[simp] theorem State.resetEngine_params : (s.resetEngine).params = s.params := rfl
@[simp] theorem State.resetEngine_done : (s.resetEngine).done = State.reset.done := rfl
@[simp] theorem State.resetEngine_valid : (s.resetEngine).valid = State.reset.valid := rfl
@[simp] theorem State.resetEngine_err : (s.resetEngine).err = State.reset.err := rfl
@[simp] theorem State.resetEngine_msgLen : (s.resetEngine).msgLen = State.reset.msgLen := rfl
@[simp] theorem State.resetEngine_digest : (s.resetEngine).digest = State.reset.digest := rfl
@[simp] theorem State.resetEngine_h : (s.resetEngine).h = State.reset.h := rfl
@[simp] theorem State.resetEngine_regs : (s.resetEngine).regs = State.reset.regs := rfl
@[simp] theorem State.resetEngine_w : (s.resetEngine).w = State.reset.w := rfl
@[simp] theorem State.resetEngine_t : (s.resetEngine).t = State.reset.t := rfl
@[simp] theorem State.resetEngine_phase : (s.resetEngine).phase = State.reset.phase := rfl
@[simp] theorem State.resetEngine_len : (s.resetEngine).len = State.reset.len := rfl
@[simp] theorem State.resetEngine_plan : (s.resetEngine).plan = State.reset.plan := rfl
@[simp] theorem State.resetEngine_block : (s.resetEngine).block = State.reset.block := rfl
@[simp] theorem State.resetEngine_scr : (s.resetEngine).scr = State.reset.scr := rfl
@[simp] theorem State.resetEngine_marks : (s.resetEngine).marks = State.reset.marks := rfl
@[simp] theorem State.resetEngine_mem : (s.resetEngine).mem = State.reset.mem := rfl
@[simp] theorem State.resetEngine_returned : (s.resetEngine).returned = s.returned := rfl
@[simp] theorem State.resetEngine_inbox : (s.resetEngine).inbox = s.inbox := rfl

/-! ### `startAccumulator` -/

@[simp] theorem State.startAccumulator_params : (s.startAccumulator).params = s.params := rfl
@[simp] theorem State.startAccumulator_done : (s.startAccumulator).done = s.done := rfl
@[simp] theorem State.startAccumulator_valid : (s.startAccumulator).valid = s.valid := rfl
@[simp] theorem State.startAccumulator_err : (s.startAccumulator).err = s.err := rfl
@[simp] theorem State.startAccumulator_msgLen : (s.startAccumulator).msgLen = s.msgLen := rfl
@[simp] theorem State.startAccumulator_digest : (s.startAccumulator).digest = s.digest := rfl
@[simp] theorem State.startAccumulator_h : (s.startAccumulator).h = initialH := rfl
@[simp] theorem State.startAccumulator_regs : (s.startAccumulator).regs = s.regs := rfl
@[simp] theorem State.startAccumulator_w : (s.startAccumulator).w = s.w := rfl
@[simp] theorem State.startAccumulator_t : (s.startAccumulator).t = s.t := rfl
@[simp] theorem State.startAccumulator_phase : (s.startAccumulator).phase = Phase.pad := rfl
@[simp] theorem State.startAccumulator_len : (s.startAccumulator).len = s.len := rfl
@[simp] theorem State.startAccumulator_plan : (s.startAccumulator).plan = s.plan := rfl
@[simp] theorem State.startAccumulator_block : (s.startAccumulator).block = s.block := rfl
@[simp] theorem State.startAccumulator_scr : (s.startAccumulator).scr = s.scr := rfl
@[simp] theorem State.startAccumulator_marks : (s.startAccumulator).marks = { s.marks with h := true } := rfl
@[simp] theorem State.startAccumulator_mem : (s.startAccumulator).mem = s.mem := rfl
@[simp] theorem State.startAccumulator_returned : (s.startAccumulator).returned = s.returned := rfl
@[simp] theorem State.startAccumulator_inbox : (s.startAccumulator).inbox = s.inbox := rfl

/-! ### `writePadding` -/

@[simp] theorem State.writePadding_params (bs : List Byte) : (s.writePadding bs).params = s.params := rfl
@[simp] theorem State.writePadding_done (bs : List Byte) : (s.writePadding bs).done = s.done := rfl
@[simp] theorem State.writePadding_valid (bs : List Byte) : (s.writePadding bs).valid = s.valid := rfl
@[simp] theorem State.writePadding_err (bs : List Byte) : (s.writePadding bs).err = s.err := rfl
@[simp] theorem State.writePadding_msgLen (bs : List Byte) : (s.writePadding bs).msgLen = s.msgLen := rfl
@[simp] theorem State.writePadding_digest (bs : List Byte) : (s.writePadding bs).digest = s.digest := rfl
@[simp] theorem State.writePadding_h (bs : List Byte) : (s.writePadding bs).h = s.h := rfl
@[simp] theorem State.writePadding_regs (bs : List Byte) : (s.writePadding bs).regs = s.regs := rfl
@[simp] theorem State.writePadding_w (bs : List Byte) : (s.writePadding bs).w = s.w := rfl
@[simp] theorem State.writePadding_t (bs : List Byte) : (s.writePadding bs).t = s.t := rfl
@[simp] theorem State.writePadding_phase (bs : List Byte) : (s.writePadding bs).phase = Phase.check := rfl
@[simp] theorem State.writePadding_len (bs : List Byte) : (s.writePadding bs).len = s.len := rfl
@[simp] theorem State.writePadding_plan (bs : List Byte) : (s.writePadding bs).plan = planOf s.len := rfl
@[simp] theorem State.writePadding_block (bs : List Byte) : (s.writePadding bs).block = s.block := rfl
@[simp] theorem State.writePadding_scr (bs : List Byte) : (s.writePadding bs).scr = scratchOf s.len bs := rfl
@[simp] theorem State.writePadding_marks (bs : List Byte) : (s.writePadding bs).marks = { s.marks with plan := true, scr := true } := rfl
@[simp] theorem State.writePadding_mem (bs : List Byte) : (s.writePadding bs).mem = s.mem := rfl
@[simp] theorem State.writePadding_returned (bs : List Byte) : (s.writePadding bs).returned = s.returned := rfl
@[simp] theorem State.writePadding_inbox (bs : List Byte) : (s.writePadding bs).inbox = s.inbox := rfl

/-! ### `selectFirst` -/

@[simp] theorem State.selectFirst_params : (s.selectFirst).params = s.params := rfl
@[simp] theorem State.selectFirst_done : (s.selectFirst).done = s.done := rfl
@[simp] theorem State.selectFirst_valid : (s.selectFirst).valid = s.valid := rfl
@[simp] theorem State.selectFirst_err : (s.selectFirst).err = s.err := rfl
@[simp] theorem State.selectFirst_msgLen : (s.selectFirst).msgLen = s.msgLen := rfl
@[simp] theorem State.selectFirst_digest : (s.selectFirst).digest = s.digest := rfl
@[simp] theorem State.selectFirst_h : (s.selectFirst).h = s.h := rfl
@[simp] theorem State.selectFirst_regs : (s.selectFirst).regs = s.regs := rfl
@[simp] theorem State.selectFirst_w : (s.selectFirst).w = s.w := rfl
@[simp] theorem State.selectFirst_t : (s.selectFirst).t = s.t := rfl
@[simp] theorem State.selectFirst_phase : (s.selectFirst).phase = Phase.load := rfl
@[simp] theorem State.selectFirst_len : (s.selectFirst).len = s.len := rfl
@[simp] theorem State.selectFirst_plan : (s.selectFirst).plan = s.plan := rfl
@[simp] theorem State.selectFirst_block : (s.selectFirst).block = firstBlock s.plan.f := rfl
@[simp] theorem State.selectFirst_scr : (s.selectFirst).scr = s.scr := rfl
@[simp] theorem State.selectFirst_marks : (s.selectFirst).marks = { s.marks with block := true } := rfl
@[simp] theorem State.selectFirst_mem : (s.selectFirst).mem = s.mem := rfl
@[simp] theorem State.selectFirst_returned : (s.selectFirst).returned = s.returned := rfl
@[simp] theorem State.selectFirst_inbox : (s.selectFirst).inbox = s.inbox := rfl

/-! ### `seedBlock` -/

@[simp] theorem State.seedBlock_params (bs : List Byte) : (s.seedBlock bs).params = s.params := rfl
@[simp] theorem State.seedBlock_done (bs : List Byte) : (s.seedBlock bs).done = s.done := rfl
@[simp] theorem State.seedBlock_valid (bs : List Byte) : (s.seedBlock bs).valid = s.valid := rfl
@[simp] theorem State.seedBlock_err (bs : List Byte) : (s.seedBlock bs).err = s.err := rfl
@[simp] theorem State.seedBlock_msgLen (bs : List Byte) : (s.seedBlock bs).msgLen = s.msgLen := rfl
@[simp] theorem State.seedBlock_digest (bs : List Byte) : (s.seedBlock bs).digest = s.digest := rfl
@[simp] theorem State.seedBlock_h (bs : List Byte) : (s.seedBlock bs).h = s.h := rfl
@[simp] theorem State.seedBlock_regs (bs : List Byte) : (s.seedBlock bs).regs = seedWorking s.h := rfl
@[simp] theorem State.seedBlock_w (bs : List Byte) : (s.seedBlock bs).w = loadWords s.w bs := rfl
@[simp] theorem State.seedBlock_t (bs : List Byte) : (s.seedBlock bs).t = 16#7 := rfl
@[simp] theorem State.seedBlock_phase (bs : List Byte) : (s.seedBlock bs).phase = Phase.expand := rfl
@[simp] theorem State.seedBlock_len (bs : List Byte) : (s.seedBlock bs).len = s.len := rfl
@[simp] theorem State.seedBlock_plan (bs : List Byte) : (s.seedBlock bs).plan = s.plan := rfl
@[simp] theorem State.seedBlock_block (bs : List Byte) : (s.seedBlock bs).block = s.block := rfl
@[simp] theorem State.seedBlock_scr (bs : List Byte) : (s.seedBlock bs).scr = s.scr := rfl
@[simp] theorem State.seedBlock_marks (bs : List Byte) : (s.seedBlock bs).marks = { s.marks with regs := true, w := Vector.ofFn fun j => decide (j.val < 16) || s.marks.w[j] } := rfl
@[simp] theorem State.seedBlock_mem (bs : List Byte) : (s.seedBlock bs).mem = s.mem := rfl
@[simp] theorem State.seedBlock_returned (bs : List Byte) : (s.seedBlock bs).returned = s.returned := rfl
@[simp] theorem State.seedBlock_inbox (bs : List Byte) : (s.seedBlock bs).inbox = s.inbox := rfl

/-! ### `expandAt` -/

@[simp] theorem State.expandAt_params (k : Nat) (hk : k < 80) : (s.expandAt k hk).params = s.params := rfl
@[simp] theorem State.expandAt_done (k : Nat) (hk : k < 80) : (s.expandAt k hk).done = s.done := rfl
@[simp] theorem State.expandAt_valid (k : Nat) (hk : k < 80) : (s.expandAt k hk).valid = s.valid := rfl
@[simp] theorem State.expandAt_err (k : Nat) (hk : k < 80) : (s.expandAt k hk).err = s.err := rfl
@[simp] theorem State.expandAt_msgLen (k : Nat) (hk : k < 80) : (s.expandAt k hk).msgLen = s.msgLen := rfl
@[simp] theorem State.expandAt_digest (k : Nat) (hk : k < 80) : (s.expandAt k hk).digest = s.digest := rfl
@[simp] theorem State.expandAt_h (k : Nat) (hk : k < 80) : (s.expandAt k hk).h = s.h := rfl
@[simp] theorem State.expandAt_regs (k : Nat) (hk : k < 80) : (s.expandAt k hk).regs = s.regs := rfl
@[simp] theorem State.expandAt_w (k : Nat) (hk : k < 80) : (s.expandAt k hk).w = s.w.set k (expandedWord s.w k) := rfl
@[simp] theorem State.expandAt_t (k : Nat) (hk : k < 80) : (s.expandAt k hk).t = if k = 79 then 0#7 else s.t + 1#7 := rfl
@[simp] theorem State.expandAt_phase (k : Nat) (hk : k < 80) : (s.expandAt k hk).phase = if k = 79 then Phase.round else s.phase := rfl
@[simp] theorem State.expandAt_len (k : Nat) (hk : k < 80) : (s.expandAt k hk).len = s.len := rfl
@[simp] theorem State.expandAt_plan (k : Nat) (hk : k < 80) : (s.expandAt k hk).plan = s.plan := rfl
@[simp] theorem State.expandAt_block (k : Nat) (hk : k < 80) : (s.expandAt k hk).block = s.block := rfl
@[simp] theorem State.expandAt_scr (k : Nat) (hk : k < 80) : (s.expandAt k hk).scr = s.scr := rfl
@[simp] theorem State.expandAt_marks (k : Nat) (hk : k < 80) : (s.expandAt k hk).marks = { s.marks with w := s.marks.w.set k true } := rfl
@[simp] theorem State.expandAt_mem (k : Nat) (hk : k < 80) : (s.expandAt k hk).mem = s.mem := rfl
@[simp] theorem State.expandAt_returned (k : Nat) (hk : k < 80) : (s.expandAt k hk).returned = s.returned := rfl
@[simp] theorem State.expandAt_inbox (k : Nat) (hk : k < 80) : (s.expandAt k hk).inbox = s.inbox := rfl

/-! ### `applyRound` -/

@[simp] theorem State.applyRound_params (f k : Word) : (s.applyRound f k).params = s.params := rfl
@[simp] theorem State.applyRound_done (f k : Word) : (s.applyRound f k).done = s.done := rfl
@[simp] theorem State.applyRound_valid (f k : Word) : (s.applyRound f k).valid = s.valid := rfl
@[simp] theorem State.applyRound_err (f k : Word) : (s.applyRound f k).err = s.err := rfl
@[simp] theorem State.applyRound_msgLen (f k : Word) : (s.applyRound f k).msgLen = s.msgLen := rfl
@[simp] theorem State.applyRound_digest (f k : Word) : (s.applyRound f k).digest = s.digest := rfl
@[simp] theorem State.applyRound_h (f k : Word) : (s.applyRound f k).h = s.h := rfl
@[simp] theorem State.applyRound_regs (f k : Word) : (s.applyRound f k).regs = roundOf s.regs f k (wordAt s.w s.t.toNat) := rfl
@[simp] theorem State.applyRound_w (f k : Word) : (s.applyRound f k).w = s.w := rfl
@[simp] theorem State.applyRound_t (f k : Word) : (s.applyRound f k).t = s.t + 1#7 := rfl
@[simp] theorem State.applyRound_phase (f k : Word) : (s.applyRound f k).phase = if s.t.toNat = 79 then Phase.accum else s.phase := rfl
@[simp] theorem State.applyRound_len (f k : Word) : (s.applyRound f k).len = s.len := rfl
@[simp] theorem State.applyRound_plan (f k : Word) : (s.applyRound f k).plan = s.plan := rfl
@[simp] theorem State.applyRound_block (f k : Word) : (s.applyRound f k).block = s.block := rfl
@[simp] theorem State.applyRound_scr (f k : Word) : (s.applyRound f k).scr = s.scr := rfl
@[simp] theorem State.applyRound_marks (f k : Word) : (s.applyRound f k).marks = s.marks := rfl
@[simp] theorem State.applyRound_mem (f k : Word) : (s.applyRound f k).mem = s.mem := rfl
@[simp] theorem State.applyRound_returned (f k : Word) : (s.applyRound f k).returned = s.returned := rfl
@[simp] theorem State.applyRound_inbox (f k : Word) : (s.applyRound f k).inbox = s.inbox := rfl

/-! ### `accumulate finished` -/

@[simp] theorem State.accumulate_finished_params : (s.accumulate .finished).params = s.params := rfl
@[simp] theorem State.accumulate_finished_done : (s.accumulate .finished).done = s.done := rfl
@[simp] theorem State.accumulate_finished_valid : (s.accumulate .finished).valid = s.valid := rfl
@[simp] theorem State.accumulate_finished_err : (s.accumulate .finished).err = s.err := rfl
@[simp] theorem State.accumulate_finished_msgLen : (s.accumulate .finished).msgLen = s.msgLen := rfl
@[simp] theorem State.accumulate_finished_digest : (s.accumulate .finished).digest = s.digest := rfl
@[simp] theorem State.accumulate_finished_h : (s.accumulate .finished).h = addWorking s.h s.regs := rfl
@[simp] theorem State.accumulate_finished_regs : (s.accumulate .finished).regs = s.regs := rfl
@[simp] theorem State.accumulate_finished_w : (s.accumulate .finished).w = s.w := rfl
@[simp] theorem State.accumulate_finished_t : (s.accumulate .finished).t = s.t := rfl
@[simp] theorem State.accumulate_finished_phase : (s.accumulate .finished).phase = Phase.serial := rfl
@[simp] theorem State.accumulate_finished_len : (s.accumulate .finished).len = s.len := rfl
@[simp] theorem State.accumulate_finished_plan : (s.accumulate .finished).plan = s.plan := rfl
@[simp] theorem State.accumulate_finished_block : (s.accumulate .finished).block = s.block := rfl
@[simp] theorem State.accumulate_finished_scr : (s.accumulate .finished).scr = s.scr := rfl
@[simp] theorem State.accumulate_finished_marks : (s.accumulate .finished).marks = s.marks := rfl
@[simp] theorem State.accumulate_finished_mem : (s.accumulate .finished).mem = s.mem := rfl
@[simp] theorem State.accumulate_finished_returned : (s.accumulate .finished).returned = s.returned := rfl
@[simp] theorem State.accumulate_finished_inbox : (s.accumulate .finished).inbox = s.inbox := rfl

/-! ### `accumulate block` -/

@[simp] theorem State.accumulate_block_params (b : Block) : (s.accumulate (.block b)).params = s.params := rfl
@[simp] theorem State.accumulate_block_done (b : Block) : (s.accumulate (.block b)).done = s.done := rfl
@[simp] theorem State.accumulate_block_valid (b : Block) : (s.accumulate (.block b)).valid = s.valid := rfl
@[simp] theorem State.accumulate_block_err (b : Block) : (s.accumulate (.block b)).err = s.err := rfl
@[simp] theorem State.accumulate_block_msgLen (b : Block) : (s.accumulate (.block b)).msgLen = s.msgLen := rfl
@[simp] theorem State.accumulate_block_digest (b : Block) : (s.accumulate (.block b)).digest = s.digest := rfl
@[simp] theorem State.accumulate_block_h (b : Block) : (s.accumulate (.block b)).h = addWorking s.h s.regs := rfl
@[simp] theorem State.accumulate_block_regs (b : Block) : (s.accumulate (.block b)).regs = s.regs := rfl
@[simp] theorem State.accumulate_block_w (b : Block) : (s.accumulate (.block b)).w = s.w := rfl
@[simp] theorem State.accumulate_block_t (b : Block) : (s.accumulate (.block b)).t = s.t := rfl
@[simp] theorem State.accumulate_block_phase (b : Block) : (s.accumulate (.block b)).phase = Phase.load := rfl
@[simp] theorem State.accumulate_block_len (b : Block) : (s.accumulate (.block b)).len = s.len := rfl
@[simp] theorem State.accumulate_block_plan (b : Block) : (s.accumulate (.block b)).plan = s.plan := rfl
@[simp] theorem State.accumulate_block_block (b : Block) : (s.accumulate (.block b)).block = b := rfl
@[simp] theorem State.accumulate_block_scr (b : Block) : (s.accumulate (.block b)).scr = s.scr := rfl
@[simp] theorem State.accumulate_block_marks (b : Block) : (s.accumulate (.block b)).marks = s.marks := rfl
@[simp] theorem State.accumulate_block_mem (b : Block) : (s.accumulate (.block b)).mem = s.mem := rfl
@[simp] theorem State.accumulate_block_returned (b : Block) : (s.accumulate (.block b)).returned = s.returned := rfl
@[simp] theorem State.accumulate_block_inbox (b : Block) : (s.accumulate (.block b)).inbox = s.inbox := rfl

/-! ### `publish` -/

@[simp] theorem State.publish_params : (s.publish).params = s.params := rfl
@[simp] theorem State.publish_done : (s.publish).done = true := rfl
@[simp] theorem State.publish_valid : (s.publish).valid = true := rfl
@[simp] theorem State.publish_err : (s.publish).err = 0#4 := rfl
@[simp] theorem State.publish_msgLen : (s.publish).msgLen = s.msgLen := rfl
@[simp] theorem State.publish_digest : (s.publish).digest = s.h := rfl
@[simp] theorem State.publish_h : (s.publish).h = s.h := rfl
@[simp] theorem State.publish_regs : (s.publish).regs = s.regs := rfl
@[simp] theorem State.publish_w : (s.publish).w = s.w := rfl
@[simp] theorem State.publish_t : (s.publish).t = s.t := rfl
@[simp] theorem State.publish_phase : (s.publish).phase = Phase.idle := rfl
@[simp] theorem State.publish_len : (s.publish).len = s.len := rfl
@[simp] theorem State.publish_plan : (s.publish).plan = s.plan := rfl
@[simp] theorem State.publish_block : (s.publish).block = s.block := rfl
@[simp] theorem State.publish_scr : (s.publish).scr = s.scr := rfl
@[simp] theorem State.publish_marks : (s.publish).marks = s.marks := rfl
@[simp] theorem State.publish_mem : (s.publish).mem = s.mem := rfl
@[simp] theorem State.publish_returned : (s.publish).returned = s.returned := rfl
@[simp] theorem State.publish_inbox : (s.publish).inbox = s.inbox := rfl

end Sys2Proof.Machine
end

