-- ==== Sys2Proof/Laws/Ops.lean ====
section
/-! SUPPORT. One lemma for each shared operation, saying everything it can do, and the inversion of `exec`: what the state after
an instruction can be. -/

namespace Sys2Proof.Machine

@[simp] theorem State.busy_iff (s : State) : s.busy = true ↔ s.phase ≠ Phase.idle := by
  simp [State.busy]

@[simp] theorem State.not_busy_iff (s : State) : s.busy = false ↔ s.phase = Phase.idle := by
  simp [State.busy]

theorem whenIdle_of_idle {s t : State} (h : s.phase = Phase.idle) : whenIdle s t = .next t := by
  simp [whenIdle, h]

theorem whenIdle_of_busy {s t : State} (h : s.phase ≠ Phase.idle) : whenIdle s t = .next s := by
  simp [whenIdle, h]

/-- A guarded access is dropped while busy and takes effect while idle; it always completes. -/
theorem whenIdle_cases {s t u : State} (h : whenIdle s t = .next u) :
    (s.phase ≠ Phase.idle ∧ u = s) ∨ (s.phase = Phase.idle ∧ u = t) := by
  by_cases hs : s.phase = Phase.idle
  · rw [whenIdle_of_idle hs] at h; cases h; exact .inr ⟨hs, rfl⟩
  · rw [whenIdle_of_busy hs] at h; cases h; exact .inl ⟨hs, rfl⟩

@[simp] theorem whenWritten_true (r : Result) : whenWritten true r = r := rfl

@[simp] theorem whenWritten_false (r : Result) : whenWritten false r = .fault .unwrittenInternalRead := rfl

/-- A micro-step completes only when what it reads has been written. -/
theorem whenWritten_next {b : Bool} {r : Result} {t : State} :
    whenWritten b r = .next t ↔ b = true ∧ r = .next t := by
  cases b <;> simp

/-- A micro-step faults on an unwritten item, or as its own rule says. -/
theorem whenWritten_fault {b : Bool} {r : Result} {f : Fault} :
    whenWritten b r = .fault f ↔ (b = false ∧ f = .unwrittenInternalRead) ∨ (b = true ∧ r = .fault f) := by
  cases b <;> simp [eq_comm]

/-- What `START` can do (R91, R93, R182). -/
theorem startCommand_cases {s t : State} (h : startCommand s = .next t) :
    (s.phase ≠ Phase.idle ∧ t = s) ∨
    (s.phase = Phase.idle ∧ s.params.msgCap < s.msgLen ∧ t = s.raise .lengthRange) ∨
    (s.phase = Phase.idle ∧ s.msgLen ≤ s.params.msgCap ∧ t = s.accept) := by
  unfold startCommand at h
  split at h
  · next hb => cases h; exact .inl ⟨by simpa using hb, rfl⟩
  · next hb =>
    have hi : s.phase = Phase.idle := by simpa using hb
    split at h
    · next hl => cases h; exact .inr (.inl ⟨hi, hl, rfl⟩)
    · next hl => cases h; exact .inr (.inr ⟨hi, by omega, rfl⟩)

/-- What a reserved command can do (R92, R93). -/
theorem reservedCommand_cases {s t : State} (h : reservedCommand s = .next t) :
    (s.phase ≠ Phase.idle ∧ t = s) ∨ (s.phase = Phase.idle ∧ t = s.raise .illegalCommand) := by
  unfold reservedCommand at h
  split at h
  · next hb => cases h; exact .inl ⟨by simpa using hb, rfl⟩
  · next hb => cases h; exact .inr ⟨by simpa using hb, rfl⟩

/-- What a write of `CTRL` can do. -/
theorem performCommand_cases {v : Word} {s t : State} (h : performCommand v s = .next t) :
    t = s ∨ startCommand s = .next t ∨ reservedCommand s = .next t := by
  unfold performCommand at h
  split at h
  · cases h; exact .inl rfl
  · split at h
    · exact .inr (.inl h)
    · exact .inr (.inr h)

/-- What a round row can do (R160). -/
theorem roundRow_next {lo hi : Nat} {f : Word → Word → Word → Word} {k : Word} {s t : State}
    (h : roundRow lo hi f k s = .next t) :
    lo ≤ s.t.toNat ∧ s.t.toNat ≤ hi ∧ s.marks.regs = true ∧ s.wordWritten s.t.toNat = true ∧
      t = s.applyRound (f s.regs.b s.regs.c s.regs.d) k := by
  unfold roundRow at h
  split at h
  · next hr =>
    obtain ⟨hw, hn⟩ := whenWritten_next.mp h
    cases hn
    rw [Bool.and_eq_true] at hw
    exact ⟨hr.1, hr.2, hw.1, hw.2, rfl⟩
  · cases h

/-- What reading the block can give (R158). -/
theorem readBlock_ok {s : State} {bytes : List Byte} (h : readBlock s = .ok bytes) :
    (s.block.src = .msg ∧ s.mem.readBytes s.block.off 64 = some bytes) ∨
    (s.block.src = .scr ∧ s.block.off + 64 ≤ 128 ∧ s.marks.scr = true ∧
      bytes = (s.scr.toList.drop s.block.off).take 64) := by
  unfold readBlock at h
  split at h
  · next hs =>
    split at h
    · next hb => cases h; exact .inl ⟨hs, hb⟩
    · cases h
  · next hs =>
    split at h
    · next ho =>
      split at h
      · next hm => cases h; exact .inr ⟨hs, ho, hm, rfl⟩
      · cases h
    · cases h

/-- What a host instruction can leave (R57, R91 to R102): the state as it was, the data of a read, a stored length or byte, an
accepted `START`, or an error; all but the first two only while the engine is idle. -/
inductive HostEffect (s : State) : State → Prop where
  | same : HostEffect s s
  | read (r : Returned) : HostEffect s (s.giveBack r)
  | lenLo (v : Word) : s.phase = Phase.idle → HostEffect s (s.setMsgLen (withLenLo s.params s.msgLen v))
  | lenHi (v : Word) : s.phase = Phase.idle → HostEffect s (s.setMsgLen (withLenHi s.params s.msgLen v))
  | byte (a : Nat) (b : Byte) : s.phase = Phase.idle → a < s.params.msgCap → HostEffect s (s.setMsgByte a b)
  | lengthRange : s.phase = Phase.idle → s.params.msgCap < s.msgLen → HostEffect s (s.raise .lengthRange)
  | illegal : s.phase = Phase.idle → HostEffect s (s.raise .illegalCommand)
  | accepted : s.phase = Phase.idle → s.msgLen ≤ s.params.msgCap → HostEffect s s.accept

/-- What a micro-step leaves (R111, R116, R133, R137, R158 to R161), with what it needed. A round carries the value of its round
function and its constant as variables with equations, so that a proof about `applyRound` meets no 32-bit literal: the kernel may
unfold one in unary. -/
inductive MicroEffect (s : State) : Instr → State → Prop where
  | init : MicroEffect s .init s.startAccumulator
  | pad (tail : List Byte) : s.mem.readBytes (fullEnd s.len) (tailLen s.len) = some tail →
      MicroEffect s .pad (s.writePadding tail)
  | checked : s.marks.plan = true → Consistent s.len s.plan.f s.plan.t.toNat s.plan.p.toNat →
      MicroEffect s .check s.selectFirst
  | inconsistent : s.marks.plan = true → ¬ Consistent s.len s.plan.f s.plan.t.toNat s.plan.p.toNat →
      MicroEffect s .check (s.raise .paddingConsistency)
  | load (bytes : List Byte) : s.marks.block = true → s.marks.h = true → readBlock s = .ok bytes →
      MicroEffect s .load (s.seedBlock bytes)
  | expand (h : s.t.toNat < 80) : 16 ≤ s.t.toNat → MicroEffect s .expand (s.expandAt s.t.toNat h)
  | round0019 (f k : Word) : f = fChoose s.regs.b s.regs.c s.regs.d → k = k0019 → s.t.toNat ≤ 19 →
      MicroEffect s .round0019 (s.applyRound f k)
  | round2039 (f k : Word) : f = fParity s.regs.b s.regs.c s.regs.d → k = k2039 → 20 ≤ s.t.toNat → s.t.toNat ≤ 39 →
      MicroEffect s .round2039 (s.applyRound f k)
  | round4059 (f k : Word) : f = fMajority s.regs.b s.regs.c s.regs.d → k = k4059 → 40 ≤ s.t.toNat → s.t.toNat ≤ 59 →
      MicroEffect s .round4059 (s.applyRound f k)
  | round6079 (f k : Word) : f = fParity s.regs.b s.regs.c s.regs.d → k = k6079 → 60 ≤ s.t.toNat → s.t.toNat ≤ 79 →
      MicroEffect s .round6079 (s.applyRound f k)
  | accum (next : After) : s.marks.h = true → s.marks.regs = true → nextBlock s.plan s.block = some next →
      MicroEffect s .accum (s.accumulate next)
  | serial : s.marks.h = true → MicroEffect s .serial s.publish

theorem startCommand_effect {s t : State} (h : startCommand s = .next t) : HostEffect s t := by
  obtain ⟨_, rfl⟩ | ⟨hi, hl, rfl⟩ | ⟨hi, hl, rfl⟩ := startCommand_cases h
  · exact .same
  · exact .lengthRange hi hl
  · exact .accepted hi hl

theorem reservedCommand_effect {s t : State} (h : reservedCommand s = .next t) : HostEffect s t := by
  obtain ⟨_, rfl⟩ | ⟨hi, rfl⟩ := reservedCommand_cases h
  · exact .same
  · exact .illegal hi

theorem performCommand_effect {v : Word} {s t : State} (h : performCommand v s = .next t) : HostEffect s t := by
  obtain rfl | h | h := performCommand_cases h
  · exact .same
  · exact startCommand_effect h
  · exact reservedCommand_effect h

theorem answerWord_effect {v : Word} {s t : State} (h : answerWord v s = .next t) : HostEffect s t := by
  cases h; exact .read _

theorem ignoredWrite_effect {s t : State} (h : ignoredWrite s = .next t) : HostEffect s t := by
  cases h; exact .same

theorem execWrMsgLenLo_effect {v : Word} {s t : State} (h : execWrMsgLenLo v s = .next t) : HostEffect s t := by
  obtain ⟨_, rfl⟩ | ⟨hi, rfl⟩ := whenIdle_cases h
  · exact .same
  · exact .lenLo v hi

theorem execWrMsgLenHi_effect {v : Word} {s t : State} (h : execWrMsgLenHi v s = .next t) : HostEffect s t := by
  obtain ⟨_, rfl⟩ | ⟨hi, rfl⟩ := whenIdle_cases h
  · exact .same
  · exact .lenHi v hi

theorem execWrMsg_effect {a : Nat} {b : Byte} {s t : State} (h : execWrMsg a b s = .next t) : HostEffect s t := by
  unfold execWrMsg at h
  split at h
  · next ha =>
    obtain ⟨_, rfl⟩ | ⟨hi, rfl⟩ := whenIdle_cases h
    · exact .same
    · exact .byte a b hi ha
  · cases h

theorem execRdMsg_effect {a : Nat} {s t : State} (h : execRdMsg a s = .next t) : HostEffect s t := by
  unfold execRdMsg at h
  split at h
  · split at h
    · cases h; exact .read _
    · cases h
  · cases h

theorem execRdOut_effect {k : Nat} {s t : State} (h : execRdOut k s = .next t) : HostEffect s t := by
  unfold execRdOut at h
  split at h
  · cases h; exact .read _
  · cases h

theorem execPad_effect {s t : State} (h : execPad s = .next t) : MicroEffect s .pad t := by
  unfold execPad at h
  split at h
  · next bs hb => cases h; exact .pad bs hb
  · cases h

theorem execCheck_effect {s t : State} (h : execCheck s = .next t) : MicroEffect s .check t := by
  obtain ⟨hw, h⟩ := whenWritten_next.mp h
  split at h
  · next hc => cases h; exact .checked hw hc
  · next hc => cases h; exact .inconsistent hw hc

theorem execSerial_effect {s t : State} (h : execSerial s = .next t) : MicroEffect s .serial t := by
  obtain ⟨hw, h⟩ := whenWritten_next.mp h
  cases h; exact .serial hw

theorem execLoad_effect {s t : State} (h : execLoad s = .next t) : MicroEffect s .load t := by
  obtain ⟨hw, h⟩ := whenWritten_next.mp h
  rw [Bool.and_eq_true] at hw
  split at h
  · next bs hb => cases h; exact .load bs hw.1 hw.2 hb
  · cases h

theorem execExpand_effect {s t : State} (h : execExpand s = .next t) : MicroEffect s .expand t := by
  unfold execExpand at h
  split at h
  · next hr => obtain ⟨_, hn⟩ := whenWritten_next.mp h; cases hn; exact .expand hr.2 hr.1
  · cases h

theorem execAccum_effect {s t : State} (h : execAccum s = .next t) : MicroEffect s .accum t := by
  obtain ⟨hw, h⟩ := whenWritten_next.mp h
  simp only [Bool.and_eq_true] at hw
  split at h
  · next nx hb => cases h; exact .accum nx hw.1.1.1 hw.1.1.2 hb
  · cases h

/-- Everything an instruction can leave: the effect of a host access, or of its own micro-step. -/
theorem exec_effect {i : Instr} {s t : State} (h : exec i s = .next t) : HostEffect s t ∨ MicroEffect s i t := by
  cases i with
  | nop => cases h; exact .inl .same
  | start => exact .inl (startCommand_effect h)
  | rsvdOp2 => exact .inl (reservedCommand_effect h)
  | rsvdOp3 => exact .inl (reservedCommand_effect h)
  | rsvdOp4 => exact .inl (reservedCommand_effect h)
  | rsvdOp5 => exact .inl (reservedCommand_effect h)
  | rsvdOp6 => exact .inl (reservedCommand_effect h)
  | rsvdOp7 => exact .inl (reservedCommand_effect h)
  | rsvdOp8 => exact .inl (reservedCommand_effect h)
  | rsvdOp9 => exact .inl (reservedCommand_effect h)
  | rsvdOpA => exact .inl (reservedCommand_effect h)
  | rsvdOpB => exact .inl (reservedCommand_effect h)
  | rsvdOpC => exact .inl (reservedCommand_effect h)
  | rsvdOpD => exact .inl (reservedCommand_effect h)
  | rsvdOpE => exact .inl (reservedCommand_effect h)
  | rsvdOpF => exact .inl (reservedCommand_effect h)
  | wrCtrl => exact .inl (performCommand_effect h)
  | rdCtrl => exact .inl (answerWord_effect h)
  | rdStatus => exact .inl (answerWord_effect h)
  | wrStatus => exact .inl (ignoredWrite_effect h)
  | wrMsgLenLo => exact .inl (execWrMsgLenLo_effect h)
  | rdMsgLenLo => exact .inl (answerWord_effect h)
  | wrMsgLenHi => exact .inl (execWrMsgLenHi_effect h)
  | rdMsgLenHi => exact .inl (answerWord_effect h)
  | rdDigest0 => exact .inl (answerWord_effect h)
  | wrDigest0 => exact .inl (ignoredWrite_effect h)
  | rdDigest1 => exact .inl (answerWord_effect h)
  | wrDigest1 => exact .inl (ignoredWrite_effect h)
  | rdDigest2 => exact .inl (answerWord_effect h)
  | wrDigest2 => exact .inl (ignoredWrite_effect h)
  | rdDigest3 => exact .inl (answerWord_effect h)
  | wrDigest3 => exact .inl (ignoredWrite_effect h)
  | rdDigest4 => exact .inl (answerWord_effect h)
  | wrDigest4 => exact .inl (ignoredWrite_effect h)
  | rdRsvd => exact .inl (answerWord_effect h)
  | wrRsvd => exact .inl (ignoredWrite_effect h)
  | wrMsg => exact .inl (execWrMsg_effect h)
  | rdMsg => exact .inl (execRdMsg_effect h)
  | rdOut => exact .inl (execRdOut_effect h)
  | init => cases h; exact .inr .init
  | pad => exact .inr (execPad_effect h)
  | check => exact .inr (execCheck_effect h)
  | load => exact .inr (execLoad_effect h)
  | expand => exact .inr (execExpand_effect h)
  | round0019 => obtain ⟨_, h2, _, _, rfl⟩ := roundRow_next h; exact .inr (.round0019 _ _ rfl rfl h2)
  | round2039 => obtain ⟨h1, h2, _, _, rfl⟩ := roundRow_next h; exact .inr (.round2039 _ _ rfl rfl h1 h2)
  | round4059 => obtain ⟨h1, h2, _, _, rfl⟩ := roundRow_next h; exact .inr (.round4059 _ _ rfl rfl h1 h2)
  | round6079 => obtain ⟨h1, h2, _, _, rfl⟩ := roundRow_next h; exact .inr (.round6079 _ _ rfl rfl h1 h2)
  | accum => exact .inr (execAccum_effect h)
  | serial => exact .inr (execSerial_effect h)

end Sys2Proof.Machine
end

