-- ==== Sys2Proof/Laws/PerInstr.lean ====
section
/-! SUPPORT. A family of statements about the instructions as syntax: the encoder writes each instruction in the format of its row
(spec/30_encoding.md R70, R75, R76), which the decoder never rejects for a well-formed instruction. -/

/-- The decoder rejects no encoding of a well-formed instruction. -/
def Sys2Proof.Laws.EncodingAdmitted.Statement (i : Sys2Proof.Instr) : Prop :=
  ∀ (p : Sys2Proof.Params) (r : Sys2Proof.Reject), i.wellFormed p = true → Sys2Proof.decode p (Sys2Proof.encode i) ≠ .error r

namespace Sys2Proof.Laws.EncodingAdmitted

/-- What decodes to an instruction is not rejected. -/
theorem ne_error {x : Except Reject Instr} {i : Instr} {r : Reject} (h : x = .ok i) : x ≠ .error r := by
  simp [h]

/-- A read of a register at a multiple of 4 up to `0xFC` is admitted. -/
theorem regRead_admitted {off : Nat} {p : Params} {r : Reject} (h4 : off % 4 = 0) (h : Nat.ble off 0xFC = true) :
    decode p (regRead off) ≠ .error r := by
  have hle : off ≤ 0xFC := Nat.le_of_ble_eq_true h
  simp only [regRead, decode, decodeAccess, decodeReg, h4, and_self, if_true]
  unfold decodeRegRead
  split <;> simp [hle]

/-- A write of a register at a multiple of 4 up to `0xFC` is admitted. -/
theorem regWrite_admitted {off : Nat} {v : Word} {p : Params} {r : Reject} (h4 : off % 4 = 0)
    (h : Nat.ble off 0xFC = true) : decode p (regWrite off v) ≠ .error r := by
  have hle : off ≤ 0xFC := Nat.le_of_ble_eq_true h
  simp only [regWrite, decode, decodeAccess, decodeReg, h4, and_self, if_true]
  unfold decodeRegWrite
  split <;> simp [hle]

theorem nop (rsvd : BitVec 28) : Statement (.nop rsvd) := fun _ _ _ => ne_error rfl
theorem start (rsvd : BitVec 28) : Statement (.start rsvd) := fun _ _ _ => ne_error rfl
theorem rsvdOp2 (rsvd : BitVec 28) : Statement (.rsvdOp2 rsvd) := fun _ _ _ => ne_error rfl
theorem rsvdOp3 (rsvd : BitVec 28) : Statement (.rsvdOp3 rsvd) := fun _ _ _ => ne_error rfl
theorem rsvdOp4 (rsvd : BitVec 28) : Statement (.rsvdOp4 rsvd) := fun _ _ _ => ne_error rfl
theorem rsvdOp5 (rsvd : BitVec 28) : Statement (.rsvdOp5 rsvd) := fun _ _ _ => ne_error rfl
theorem rsvdOp6 (rsvd : BitVec 28) : Statement (.rsvdOp6 rsvd) := fun _ _ _ => ne_error rfl
theorem rsvdOp7 (rsvd : BitVec 28) : Statement (.rsvdOp7 rsvd) := fun _ _ _ => ne_error rfl
theorem rsvdOp8 (rsvd : BitVec 28) : Statement (.rsvdOp8 rsvd) := fun _ _ _ => ne_error rfl
theorem rsvdOp9 (rsvd : BitVec 28) : Statement (.rsvdOp9 rsvd) := fun _ _ _ => ne_error rfl
theorem rsvdOpA (rsvd : BitVec 28) : Statement (.rsvdOpA rsvd) := fun _ _ _ => ne_error rfl
theorem rsvdOpB (rsvd : BitVec 28) : Statement (.rsvdOpB rsvd) := fun _ _ _ => ne_error rfl
theorem rsvdOpC (rsvd : BitVec 28) : Statement (.rsvdOpC rsvd) := fun _ _ _ => ne_error rfl
theorem rsvdOpD (rsvd : BitVec 28) : Statement (.rsvdOpD rsvd) := fun _ _ _ => ne_error rfl
theorem rsvdOpE (rsvd : BitVec 28) : Statement (.rsvdOpE rsvd) := fun _ _ _ => ne_error rfl
theorem rsvdOpF (rsvd : BitVec 28) : Statement (.rsvdOpF rsvd) := fun _ _ _ => ne_error rfl
theorem wrCtrl (v : Word) : Statement (.wrCtrl v) := fun _ _ _ => regWrite_admitted rfl rfl
theorem rdCtrl : Statement .rdCtrl := fun _ _ _ => regRead_admitted rfl rfl
theorem rdStatus : Statement .rdStatus := fun _ _ _ => regRead_admitted rfl rfl
theorem wrStatus (v : Word) : Statement (.wrStatus v) := fun _ _ _ => regWrite_admitted rfl rfl
theorem wrMsgLenLo (v : Word) : Statement (.wrMsgLenLo v) := fun _ _ _ => regWrite_admitted rfl rfl
theorem rdMsgLenLo : Statement .rdMsgLenLo := fun _ _ _ => regRead_admitted rfl rfl
theorem wrMsgLenHi (v : Word) : Statement (.wrMsgLenHi v) := fun _ _ _ => regWrite_admitted rfl rfl
theorem rdMsgLenHi : Statement .rdMsgLenHi := fun _ _ _ => regRead_admitted rfl rfl
theorem rdDigest0 : Statement .rdDigest0 := fun _ _ _ => regRead_admitted rfl rfl
theorem wrDigest0 (v : Word) : Statement (.wrDigest0 v) := fun _ _ _ => regWrite_admitted rfl rfl
theorem rdDigest1 : Statement .rdDigest1 := fun _ _ _ => regRead_admitted rfl rfl
theorem wrDigest1 (v : Word) : Statement (.wrDigest1 v) := fun _ _ _ => regWrite_admitted rfl rfl
theorem rdDigest2 : Statement .rdDigest2 := fun _ _ _ => regRead_admitted rfl rfl
theorem wrDigest2 (v : Word) : Statement (.wrDigest2 v) := fun _ _ _ => regWrite_admitted rfl rfl
theorem rdDigest3 : Statement .rdDigest3 := fun _ _ _ => regRead_admitted rfl rfl
theorem wrDigest3 (v : Word) : Statement (.wrDigest3 v) := fun _ _ _ => regWrite_admitted rfl rfl
theorem rdDigest4 : Statement .rdDigest4 := fun _ _ _ => regRead_admitted rfl rfl
theorem wrDigest4 (v : Word) : Statement (.wrDigest4 v) := fun _ _ _ => regWrite_admitted rfl rfl
theorem rdRsvd (off : BitVec 8) : Statement (.rdRsvd off) := by
  intro p r h
  simp only [Instr.wellFormed, decide_eq_true_eq] at h
  exact regRead_admitted h.2.2 (Nat.ble_eq_true_of_le h.2.1)
theorem wrRsvd (off : BitVec 8) (v : Word) : Statement (.wrRsvd off v) := by
  intro p r h
  simp only [Instr.wellFormed, decide_eq_true_eq] at h
  exact regWrite_admitted h.2.2 (Nat.ble_eq_true_of_le h.2.1)
theorem wrMsg (a : Nat) (b : Byte) : Statement (.wrMsg a b) := by
  intro p r h
  simp only [Instr.wellFormed, decide_eq_true_eq] at h
  simp [encode, decode, decodeAccess, decodeMsg, h]
theorem rdMsg (a : Nat) : Statement (.rdMsg a) := by
  intro p r h
  simp only [Instr.wellFormed, decide_eq_true_eq] at h
  simp [encode, decode, decodeAccess, decodeMsg, h]
theorem rdOut (k : Nat) : Statement (.rdOut k) := by
  intro p r h
  simp only [Instr.wellFormed, decide_eq_true_eq] at h
  simp [encode, decode, decodeAccess, decodeOut, h]
theorem init : Statement .init := fun _ _ _ => ne_error rfl
theorem pad : Statement .pad := fun _ _ _ => ne_error rfl
theorem check : Statement .check := fun _ _ _ => ne_error rfl
theorem load : Statement .load := fun _ _ _ => ne_error rfl
theorem expand : Statement .expand := fun _ _ _ => ne_error rfl
theorem round0019 : Statement .round0019 := fun _ _ _ => ne_error rfl
theorem round2039 : Statement .round2039 := fun _ _ _ => ne_error rfl
theorem round4059 : Statement .round4059 := fun _ _ _ => ne_error rfl
theorem round6079 : Statement .round6079 := fun _ _ _ => ne_error rfl
theorem accum : Statement .accum := fun _ _ _ => ne_error rfl
theorem serial : Statement .serial := fun _ _ _ => ne_error rfl

end Sys2Proof.Laws.EncodingAdmitted
end

