-- ==== Sys2Proof/Laws/Platform.lean ====
section
/-! SUPPORT. What a step of a platform can do, said once. -/

namespace Sys2Proof.Machine

@[simp] theorem Platform.reset_nEngines (ps : List Params) : (Platform.reset ps).nEngines = ps.length := List.length_map _

/-- A step of a platform is a step of one engine that it has, put back in its place. -/
theorem Platform.step_next {p p' : Platform} {k : Nat} (h : p.step k = .next p') :
    ∃ s t, p.engines[k]? = some s ∧ Sys2Proof.Machine.step s = .next t ∧ p' = ⟨p.engines.set k t⟩ := by
  unfold Platform.step at h
  split at h
  · cases h
  · next s hs =>
    split at h
    · next t ht => cases h; exact ⟨s, t, hs, ht, rfl⟩
    · cases h
    · cases h

/-- An engine that the platform has, and that takes a step, makes the platform take one. -/
theorem Platform.step_of {p : Platform} {k : Nat} {s t : State} (hs : p.engines[k]? = some s)
    (ht : Sys2Proof.Machine.step s = .next t) : p.step k = .next ⟨p.engines.set k t⟩ := by
  simp [Platform.step, hs, ht]

end Sys2Proof.Machine
end

