-- ==== Sys2Proof/Laws/Step.lean ====
section
/-! SUPPORT. What a step can do, said once: the inversion of the decoder on `PHASE`, of the fetch and of the step, and how runs
compose. -/

namespace Sys2Proof.Machine

/-- Which micro-step a `PHASE` code and `t` select (R76, R77). -/
theorem decodePhase_ok {c : BitVec 4} {t : BitVec 7} {i : Instr} (h : decodePhase c t = .ok i) :
    (c = Phase.init ∧ i = .init) ∨ (c = Phase.pad ∧ i = .pad) ∨ (c = Phase.check ∧ i = .check) ∨
    (c = Phase.load ∧ i = .load) ∨
    (c = Phase.expand ∧ 16 ≤ t.toNat ∧ t.toNat ≤ 79 ∧ i = .expand) ∨
    (c = Phase.round ∧ decodeRound t = .ok i) ∨
    (c = Phase.accum ∧ i = .accum) ∨ (c = Phase.serial ∧ i = .serial) := by
  unfold decodePhase at h
  have key (n : Nat) (hn : c.toNat = n) : c = BitVec.ofNat 4 n := by
    rw [← hn]; simp
  split at h
  · cases h
  · next hc => cases h; exact .inl ⟨key _ hc, rfl⟩
  · next hc => cases h; exact .inr (.inl ⟨key _ hc, rfl⟩)
  · next hc => cases h; exact .inr (.inr (.inl ⟨key _ hc, rfl⟩))
  · next hc => cases h; exact .inr (.inr (.inr (.inl ⟨key _ hc, rfl⟩)))
  · next hc =>
    split at h
    · next ht => cases h; exact .inr (.inr (.inr (.inr (.inl ⟨key _ hc, ht.1, ht.2, rfl⟩))))
    · cases h
  · next hc => exact .inr (.inr (.inr (.inr (.inr (.inl ⟨key _ hc, h⟩)))))
  · next hc => cases h; exact .inr (.inr (.inr (.inr (.inr (.inr (.inl ⟨key _ hc, rfl⟩))))))
  · next hc => cases h; exact .inr (.inr (.inr (.inr (.inr (.inr (.inr ⟨key _ hc, rfl⟩))))))
  · cases h

/-- The round row of an index is one of the four (R157). -/
theorem decodeRound_ok {t : BitVec 7} {i : Instr} (h : decodeRound t = .ok i) :
    (t.toNat ≤ 19 ∧ i = .round0019) ∨ (20 ≤ t.toNat ∧ t.toNat ≤ 39 ∧ i = .round2039) ∨
    (40 ≤ t.toNat ∧ t.toNat ≤ 59 ∧ i = .round4059) ∨ (60 ≤ t.toNat ∧ t.toNat ≤ 79 ∧ i = .round6079) := by
  unfold decodeRound at h
  split at h
  · next h1 => cases h; exact .inl ⟨h1, rfl⟩
  · split at h
    · next h1 h2 => cases h; exact .inr (.inl ⟨by omega, h2, rfl⟩)
    · split at h
      · next h1 h2 h3 => cases h; exact .inr (.inr (.inl ⟨by omega, h3, rfl⟩))
      · split at h
        · next h1 h2 h3 h4 => cases h; exact .inr (.inr (.inr ⟨by omega, h4, rfl⟩))
        · cases h

/-- A command is no micro-step. -/
theorem decodeCommand_host (w : Word) : (decodeCommand w).isMicroStep = false := by
  unfold decodeCommand
  dsimp only
  split <;> rfl

/-- An instruction read from a bus access is no micro-step. -/
theorem decodeAccess_host {p : Params} {a : Access} {i : Instr} (h : decodeAccess p a = .ok i) :
    i.isMicroStep = false := by
  unfold decodeAccess at h
  split at h
  · unfold decodeReg at h
    split at h
    · split at h
      · unfold decodeRegRead at h
        split at h <;> first | (cases h; rfl) | (split at h <;> first | (cases h; rfl) | cases h)
      · unfold decodeRegWrite at h
        split at h <;> first | (cases h; rfl) | (split at h <;> first | (cases h; rfl) | cases h)
    · cases h
  · unfold decodeMsg at h
    split at h
    · split at h
      · split at h <;> (cases h; rfl)
      · cases h
    · cases h
  · unfold decodeOut at h
    split at h
    · split at h
      · split at h
        · cases h; rfl
        · cases h
      · cases h
    · cases h

/-- The fetch of a code that decodes runs it. -/
theorem fetchCode_ok {c : Code} {s : State} {i : Instr} (h : decode s.params c = .ok i) :
    fetchCode c s = .run i s := by
  simp [fetchCode, h]

/-- What the fetch of a code can find. -/
theorem fetchCode_run {c : Code} {s u : State} {i : Instr} (h : fetchCode c s = .run i u) :
    decode s.params c = .ok i ∧ u = s := by
  unfold fetchCode at h
  split at h <;> first | (cases h; exact ⟨by assumption, rfl⟩) | cases h

theorem fetchCode_settled {c : Code} {s u : State} (h : fetchCode c s = .settled u) :
    u = s ∧ decode s.params c = .error .noMicroStep := by
  unfold fetchCode at h
  split at h <;> first | (cases h; exact ⟨rfl, by assumption⟩) | cases h

/-- What can be fetched: a host instruction, the engine's micro-step, a turn of an idle engine, or a reset; the schedule has
lost the entry taken. -/
theorem fetch_cases (s : State) :
    ∃ rest, ∃ u, u = s.setInbox rest ∧
      ((∃ i, fetch s = .run i u ∧ i.isMicroStep = false) ∨
       (∃ i, fetch s = .run i u ∧ decodePhase u.phase u.t = .ok i) ∨
       fetch s = .settled u ∨ fetch s = .settled u.resetEngine ∨
       (∃ r, fetch s = .refuse r) ∨ (fetch s = .stop .badPhase ∧ decodePhase u.phase u.t = .error .badPhase)) := by
  have micro (u : State) : (∃ i, fetchMicroStep u = .run i u ∧ decodePhase u.phase u.t = .ok i) ∨
      fetchMicroStep u = .settled u ∨ (∃ r, fetchMicroStep u = .refuse r) ∨
      (fetchMicroStep u = .stop .badPhase ∧ decodePhase u.phase u.t = .error .badPhase) := by
    unfold fetchMicroStep fetchCode
    show _ ∨ _ ∨ _ ∨ _
    simp only [decode]
    cases h : decodePhase u.phase u.t with
    | ok i => exact .inl ⟨i, rfl, rfl⟩
    | error r => cases r <;> simp
  have host (c : Code) (u : State) (hc : ∀ i, decode u.params c = .ok i → i.isMicroStep = false)
      (hb : decode u.params c ≠ .error .badPhase) :
      (∃ i, fetchCode c u = .run i u ∧ i.isMicroStep = false) ∨ fetchCode c u = .settled u ∨
      (∃ r, fetchCode c u = .refuse r) := by
    unfold fetchCode
    cases h : decode u.params c with
    | ok i => exact .inl ⟨i, rfl, hc i h⟩
    | error r => cases r <;> simp_all
  have busOk (p : Params) (a : Access) : decode p (.bus a) ≠ .error .badPhase := by
    simp only [decode]
    unfold decodeAccess decodeReg decodeMsg decodeOut decodeRegRead decodeRegWrite
    repeat' split
    all_goals simp
  cases hs : s.inbox with
  | nil =>
    refine ⟨[], s, by cases s; cases hs; rfl, ?_⟩
    have : fetch s = fetchMicroStep s := by simp [fetch, hs]
    rw [this]
    obtain h | h | h | h := micro s
    · exact .inr (.inl h)
    · exact .inr (.inr (.inl h))
    · exact .inr (.inr (.inr (.inr (.inl h))))
    · exact .inr (.inr (.inr (.inr (.inr h))))
  | cons e rest =>
    refine ⟨rest, s.setInbox rest, rfl, ?_⟩
    have : fetch s = fetchEvent e (s.setInbox rest) := by simp [fetch, hs]
    rw [this]
    generalize s.setInbox rest = u
    cases e with
    | cmd w =>
      obtain h | h | h := host (.cmd w) u (fun i hi => by cases hi; exact decodeCommand_host w) (by simp [decode])
      · exact .inl h
      · exact .inr (.inr (.inl h))
      · exact .inr (.inr (.inr (.inr (.inl h))))
    | bus a =>
      obtain h | h | h := host (.bus a) u (fun i hi => decodeAccess_host hi) (busOk _ a)
      · exact .inl h
      · exact .inr (.inr (.inl h))
      · exact .inr (.inr (.inr (.inr (.inl h))))
    | platform addr width dir data =>
      simp only [fetchEvent, fetchPlatform]
      cases hl : u.params.locate addr with
      | none => simp
      | some x =>
        obtain ⟨space, loc⟩ := x
        obtain h | h | h := host (.bus ⟨space, loc, width, dir, data⟩) u (fun i hi => decodeAccess_host hi) (busOk _ _)
        · exact .inl h
        · exact .inr (.inr (.inl h))
        · exact .inr (.inr (.inr (.inr (.inl h))))
    | engine =>
      obtain h | h | h | h := micro u
      · exact .inr (.inl h)
      · exact .inr (.inr (.inl h))
      · exact .inr (.inr (.inr (.inr (.inl h))))
      · exact .inr (.inr (.inr (.inr (.inr h))))
    | reset => exact .inr (.inr (.inr (.inl rfl)))

/-- What a host instruction leaves. -/
theorem exec_host {i : Instr} {s t : State} (hi : i.isMicroStep = false) (h : exec i s = .next t) : HostEffect s t := by
  obtain h | h := exec_effect h
  · exact h
  · cases h <;> exact absurd hi Bool.noConfusion

/-- What a micro-step leaves. -/
theorem exec_micro {i : Instr} {s t : State} (hi : i.isMicroStep = true) (h : exec i s = .next t) : MicroEffect s i t := by
  cases i <;> first
    | exact absurd hi Bool.false_ne_true
    | (cases h; exact .init)
    | exact execPad_effect h
    | exact execCheck_effect h
    | exact execLoad_effect h
    | exact execExpand_effect h
    | (obtain ⟨_, h2, _, _, rfl⟩ := roundRow_next h; exact .round0019 _ _ rfl rfl h2)
    | (obtain ⟨h1, h2, _, _, rfl⟩ := roundRow_next h; exact .round2039 _ _ rfl rfl h1 h2)
    | (obtain ⟨h1, h2, _, _, rfl⟩ := roundRow_next h; exact .round4059 _ _ rfl rfl h1 h2)
    | (obtain ⟨h1, h2, _, _, rfl⟩ := roundRow_next h; exact .round6079 _ _ rfl rfl h1 h2)
    | exact execAccum_effect h
    | exact execSerial_effect h

theorem decodePhase_micro {c : BitVec 4} {t : BitVec 7} {i : Instr} (h : decodePhase c t = .ok i) :
    i.isMicroStep = true := by
  obtain ⟨-, rfl⟩ | ⟨-, rfl⟩ | ⟨-, rfl⟩ | ⟨-, rfl⟩ | ⟨-, -, -, rfl⟩ | ⟨-, h⟩ | ⟨-, rfl⟩ | ⟨-, rfl⟩ :=
    decodePhase_ok h <;> try rfl
  obtain ⟨-, rfl⟩ | ⟨-, -, rfl⟩ | ⟨-, -, rfl⟩ | ⟨-, -, rfl⟩ := decodeRound_ok h <;> rfl

/-- Everything a step can leave: one entry of the schedule is taken (or the schedule was empty), and then the state stays as
it is, is reset, or takes the effect of a host access or of the micro-step that `PHASE` and `t` select. -/
theorem step_cases {s t : State} (h : step s = .next t) :
    ∃ rest, ∃ u, u = s.setInbox rest ∧
      (t = u ∨ t = u.resetEngine ∨ HostEffect u t ∨
        ∃ i, decodePhase u.phase u.t = .ok i ∧ MicroEffect u i t) := by
  obtain ⟨rest, u, hu, hc⟩ := fetch_cases s
  refine ⟨rest, u, hu, ?_⟩
  unfold step at h
  rcases hc with ⟨i, hf, hi⟩ | ⟨i, hf, hi⟩ | hf | hf | ⟨r, hf⟩ | ⟨hf, -⟩ <;> rw [hf] at h
  · exact .inr (.inr (.inl (exec_host hi h)))
  · exact .inr (.inr (.inr ⟨i, hi, exec_micro (decodePhase_micro hi) h⟩))
  · cases h; exact .inl rfl
  · cases h; exact .inr (.inl rfl)
  · cases h
  · cases h

/-- With nothing scheduled, a step is the micro-step that `PHASE` and `t` select. -/
theorem step_engine {s : State} {i : Instr} (hs : s.inbox = []) (h : decodePhase s.phase s.t = .ok i) :
    step s = exec i s := by
  have : fetch s = .run i s := by
    simp only [fetch, hs, fetchMicroStep]
    exact fetchCode_ok h
  simp [step, this]

/-- A scheduled engine turn is the micro-step that `PHASE` and `t` select. -/
theorem step_engine_turn {s : State} {i : Instr} {rest : List Event} (hs : s.inbox = .engine :: rest)
    (h : decodePhase s.phase s.t = .ok i) : step s = exec i (s.setInbox rest) := by
  have : fetch s = .run i (s.setInbox rest) := by
    simp only [fetch, hs, fetchEvent, fetchMicroStep]
    exact fetchCode_ok (by simpa [decode] using h)
  simp [step, this]

/-- A scheduled command is run. -/
theorem step_cmd {s : State} {w : Word} {rest : List Event} (hs : s.inbox = .cmd w :: rest) :
    step s = exec (decodeCommand w) (s.setInbox rest) := by
  simp [step, fetch, hs, fetchEvent, fetchCode, decode]

/-- A run of `m + n` steps is a run of `m` steps and then one of `n`. -/
theorem run_add {m n : Nat} {s t : State} (h : Host.Core.run Sys2Proof.core m s = .next t) :
    Host.Core.run Sys2Proof.core (m + n) s = Host.Core.run Sys2Proof.core n t := by
  induction m generalizing s with
  | zero => cases h; simp
  | succ m ih =>
    rw [Nat.succ_add]
    simp only [Host.Core.run] at h ⊢
    cases hs : Sys2Proof.core.step s with
    | next u => rw [hs] at h; simpa using ih h
    | fault f => rw [hs] at h; cases h
    | refused r => rw [hs] at h; cases h

theorem run_one {s t : State} (h : step s = .next t) : Host.Core.run Sys2Proof.core 1 s = .next t := by
  have : Sys2Proof.core.step s = .next t := h
  simp [Host.Core.run, this]

end Sys2Proof.Machine
end

