-- ==== Sys2Proof/Tests/Slice0.lean ====
section
/-! SUPPORT. Tests of the model. Each expected value is one that spec/95_test_vectors.md or a rule of spec/ gives; the vector or the
rule is named. Below them stand the witnesses: for every statement with hypotheses, a state and operands that meet them. -/

namespace Sys2Proof.Tests

-- One theorem after another: each waits for the kernel, and many waiting at once would exhaust the compiler's threads.
set_option Elab.async false

open Sys2Proof.Machine

/-! ### Helpers -/

/-- An idle machine after reset, with the parameters of a vector. -/
def sized (cap lenW : Nat) : State := { State.reset with params := ⟨lenW, cap, 0x1000, 0x2000, 0x3000⟩ }

/-- The default parameters of spec/95_test_vectors.md. -/
def idle : State := sized 1024 32

/-- The initial accumulator of R112, written out again. -/
def iv : Vector Word 5 := #v[0x67452301#32, 0xEFCDAB89#32, 0x98BADCFE#32, 0x10325476#32, 0xC3D2E1F0#32]

/-- The digest of "abc" (V-D2). -/
def abcDigest : Vector Word 5 := #v[0xA9993E36#32, 0x4706816A#32, 0xBA3E2571#32, 0x7850C26C#32, 0x9CD0D89D#32]

/-- "abc" in `MSG`, `MSG_LEN = 3`. -/
def abc : State := { idle with mem := [(0, 0x61#8), (1, 0x62#8), (2, 0x63#8)], msgLen := 3 }

/-- The end state of an operation over "abc": `STATUS = 00000006`. -/
def published : State := { abc with digest := abcDigest, done := true, valid := true }

/-- The engine in the midst of an operation over "abc", at a `PHASE` and a `t`, with every internal item written. -/
def standing (p : BitVec 4) (t : BitVec 7) : State :=
  { abc with
    phase := p, t := t, len := 3, h := iv, plan := ⟨0, 3#6, 64#8⟩, block := ⟨.scr, 0⟩,
    scr := scratchOf 3 [0x61#8, 0x62#8, 0x63#8], marks := allWritten }

/-- Busy, `STATUS = 00000001`. -/
def busy : State := standing 0x1#4 0#7

/-- A machine whose schedule holds one access. -/
def access (space : Space) (loc width : Nat) (dir : Dir) (data : Word) : State :=
  { sized 64 32 with inbox := [.bus ⟨space, loc, width, dir, data⟩] }

/-- A part of the state after an instruction or a step, if there is one. -/
def after {α : Type} (r : Result) (f : State → α) : Option α :=
  match r with
  | .next t => some (f t)
  | .fault _ => none
  | .refused _ => none

/-- The fault a result ends in, if any. -/
def faultOf (r : Result) : Option Fault :=
  match r with
  | .fault f => some f
  | .next _ => none
  | .refused _ => none

/-- The refusal a result ends in, if any. -/
def refusalOf (r : Result) : Option Refusal :=
  match r with
  | .refused f => some f
  | .next _ => none
  | .fault _ => none

/-- An instruction a code decodes to, if any. -/
def decoded (c : Code) : Option Instr :=
  match decode ⟨32, 1024, 0, 0, 0⟩ c with
  | .ok i => some i
  | .error _ => none

/-! ### Decoding: words written out from R70, R71, R75, R76 and R77 -/

/-- R70, R71: bits 3:0 choose, bits 31:4 are carried and ignored. -/
theorem test_decode_commands :
    [0x00000000#32, 0xABCDEF11#32, 0xABCDEF12#32, 0xABCDEF13#32, 0xABCDEF14#32, 0xABCDEF15#32, 0xABCDEF16#32,
      0xABCDEF17#32].map (fun w => decoded (.cmd w)) =
    [some (.nop 0x0000000#28), some (.start 0xABCDEF1#28), some (.rsvdOp2 0xABCDEF1#28), some (.rsvdOp3 0xABCDEF1#28),
      some (.rsvdOp4 0xABCDEF1#28), some (.rsvdOp5 0xABCDEF1#28), some (.rsvdOp6 0xABCDEF1#28),
      some (.rsvdOp7 0xABCDEF1#28)] := by decide +kernel

/-- R71, the upper half of the opcodes. -/
theorem test_decode_commands_high :
    [0x00000018#32, 0x00000019#32, 0x0000001A#32, 0x0000001B#32, 0x0000001C#32, 0x0000001D#32, 0x0000001E#32,
      0x0000001F#32].map (fun w => decoded (.cmd w)) =
    [some (.rsvdOp8 1#28), some (.rsvdOp9 1#28), some (.rsvdOpA 1#28), some (.rsvdOpB 1#28), some (.rsvdOpC 1#28),
      some (.rsvdOpD 1#28), some (.rsvdOpE 1#28), some (.rsvdOpF 1#28)] := by decide +kernel

/-- R75, R58: the register reads by offset. -/
theorem test_decode_register_reads :
    [0x00, 0x04, 0x08, 0x0C, 0x10, 0x14, 0x18, 0x1C, 0x20, 0x24, 0xFC].map
      (fun off => decoded (.bus ⟨.reg, off, 32, .read, 0#32⟩)) =
    [some .rdCtrl, some .rdStatus, some .rdMsgLenLo, some .rdMsgLenHi, some .rdDigest0, some .rdDigest1, some .rdDigest2,
      some .rdDigest3, some .rdDigest4, some (.rdRsvd 0x24#8), some (.rdRsvd 0xFC#8)] := by decide +kernel

/-- R75, R58: the register writes by offset. -/
theorem test_decode_register_writes :
    [0x00, 0x04, 0x08, 0x0C, 0x10, 0x14, 0x18, 0x1C, 0x20, 0x24, 0xFC].map
      (fun off => decoded (.bus ⟨.reg, off, 32, .write, 0x89ABCDEF#32⟩)) =
    [some (.wrCtrl 0x89ABCDEF#32), some (.wrStatus 0x89ABCDEF#32), some (.wrMsgLenLo 0x89ABCDEF#32),
      some (.wrMsgLenHi 0x89ABCDEF#32), some (.wrDigest0 0x89ABCDEF#32), some (.wrDigest1 0x89ABCDEF#32),
      some (.wrDigest2 0x89ABCDEF#32), some (.wrDigest3 0x89ABCDEF#32), some (.wrDigest4 0x89ABCDEF#32),
      some (.wrRsvd 0x24#8 0x89ABCDEF#32), some (.wrRsvd 0xFC#8 0x89ABCDEF#32)] := by decide +kernel

/-- R75: byte accesses, at the first and the last location. -/
theorem test_decode_byte_accesses :
    [decoded (.bus ⟨.msg, 0, 8, .write, 0x00000063#32⟩), decoded (.bus ⟨.msg, 1023, 8, .read, 0#32⟩),
      decoded (.bus ⟨.out, 0, 8, .read, 0#32⟩), decoded (.bus ⟨.out, 19, 8, .read, 0#32⟩)] =
    [some (.wrMsg 0 0x63#8), some (.rdMsg 1023), some (.rdOut 0), some (.rdOut 19)] := by decide +kernel

/-- R76, R77, R157: the micro-steps by `PHASE` and `t`. -/
theorem test_decode_phases :
    [decoded (.phase 0x1#4 0#7), decoded (.phase 0x2#4 0#7), decoded (.phase 0x3#4 0#7), decoded (.phase 0x4#4 0#7),
      decoded (.phase 0x5#4 16#7), decoded (.phase 0x5#4 79#7), decoded (.phase 0x7#4 80#7),
      decoded (.phase 0x8#4 80#7)] =
    [some .init, some .pad, some .check, some .load, some .expand, some .expand, some .accum, some .serial] := by
  decide +kernel

/-- R157: the boundaries of the round rows. -/
theorem test_decode_round_rows :
    [0#7, 19#7, 20#7, 39#7, 40#7, 59#7, 60#7, 79#7].map (fun t => decoded (.phase 0x6#4 t)) =
    [some .round0019, some .round0019, some .round2039, some .round2039, some .round4059, some .round4059,
      some .round6079, some .round6079] := by decide +kernel

/-- R76, R78, R59, R55: what decodes to no instruction. -/
theorem test_decode_rejects :
    [decoded (.phase 0x0#4 0#7), decoded (.phase 0x9#4 0#7), decoded (.phase 0xF#4 0#7), decoded (.phase 0x5#4 15#7),
      decoded (.phase 0x5#4 80#7), decoded (.phase 0x6#4 80#7), decoded (.bus ⟨.msg, 1024, 8, .read, 0#32⟩),
      decoded (.bus ⟨.out, 20, 8, .read, 0#32⟩), decoded (.bus ⟨.out, 0, 8, .write, 0#32⟩),
      decoded (.bus ⟨.reg, 0x06, 32, .read, 0#32⟩), decoded (.bus ⟨.reg, 0x100, 32, .read, 0#32⟩)] =
    List.replicate 11 none := by decide +kernel

/-! ### Well-formedness: one ill-formed term for each check -/

/-- R75, R59: the operands a row does not admit are refused, their neighbours are not. -/
theorem test_ill_formed_operands :
    [Instr.rdRsvd 0x20#8, .rdRsvd 0x26#8, .rdRsvd 0xFD#8, .wrRsvd 0x20#8 0#32, .wrRsvd 0x26#8 0#32, .wrRsvd 0xFD#8 0#32,
      .wrMsg 64 0#8, .rdMsg 64, .rdOut 20].map (Instr.wellFormed ⟨32, 64, 0, 0, 0⟩) = List.replicate 9 false ∧
    [Instr.rdRsvd 0x24#8, .rdRsvd 0xFC#8, .wrRsvd 0x24#8 0#32, .wrRsvd 0xFC#8 0#32, .wrMsg 63 0#8, .rdMsg 63,
      .rdOut 19].map (Instr.wellFormed ⟨32, 64, 0, 0, 0⟩) = List.replicate 7 true := by decide +kernel

/-! ### Words, byte order and round functions (sections 4 and 2 of the vectors) -/

/-- V-W2 to V-W10. -/
theorem test_rotations :
    [rotl 0x00000001#32 1, rotl 0xFFFFFFFF#32 5, rotl 0x12345678#32 5, rotl 0x12345678#32 30, rotl 0x00000001#32 30,
      rotl 0x80000000#32 30, rotl 0#32 5, rotl 0x67452301#32 5, rotl 0xEFCDAB89#32 30] =
    [0x00000002#32, 0xFFFFFFFF#32, 0x468ACF02#32, 0x048D159E#32, 0x40000000#32, 0x20000000#32, 0#32, 0xE8A4602C#32,
      0x7BF36AE2#32] := by decide +kernel

/-- V-F7, V-F8, V-F9: choose, parity, majority. -/
theorem test_round_functions :
    [fChoose 0xF0F0F0F0#32 0xFF00FF00#32 0xAAAAAAAA#32, fParity 0xF0F0F0F0#32 0xFF00FF00#32 0xAAAAAAAA#32,
      fMajority 0xF0F0F0F0#32 0xFF00FF00#32 0xAAAAAAAA#32, fChoose 0x0F0F0F0F#32 0x33333333#32 0x55555555#32,
      fParity 0x0F0F0F0F#32 0x33333333#32 0x55555555#32, fMajority 0x0F0F0F0F#32 0x33333333#32 0x55555555#32,
      fMajority 0xEFCDAB89#32 0x98BADCFE#32 0x10325476#32] =
    [0xFA0AFA0A#32, 0xA55AA55A#32, 0xFAA0FAA0#32, 0x53535353#32, 0x69696969#32, 0x17171717#32, 0x98BADCFE#32] := by
  decide +kernel

/-- V-P5, V-P9, V-P15: plans and the length field. -/
theorem test_plans :
    [planOf 56, planOf 65, planOf 4294967295] = [⟨0, 56#6, 128#8⟩, ⟨64, 1#6, 64#8⟩, ⟨4294967232, 63#6, 128#8⟩] ∧
    bytesBe (bitLength 4294967295) 8 = [0x00#8, 0x00#8, 0x00#8, 0x07#8, 0xFF#8, 0xFF#8, 0xFF#8, 0xF8#8] := by
  decide +kernel

/-- V-C1 to V-C5, and that every bound of the predicate can fail (R136). -/
theorem test_consistency :
    (Consistent 3 0 3 64 ∧ Consistent 56 0 56 128 ∧ Consistent 64 64 0 64) ∧ ¬ Consistent 56 0 56 64 ∧
      ¬ Consistent 3 0 3 128 := by decide +kernel

/-- V-B4, V-B5: the blocks of a message, from the first to the end. -/
theorem test_block_selection :
    firstBlock 64 = ⟨.msg, 0⟩ ∧ nextBlock ⟨64, 0#6, 128#8⟩ ⟨.msg, 0⟩ = some (.block ⟨.scr, 0⟩) ∧
      nextBlock ⟨64, 0#6, 128#8⟩ ⟨.scr, 0⟩ = some (.block ⟨.scr, 64⟩) ∧
      nextBlock ⟨64, 0#6, 128#8⟩ ⟨.scr, 64⟩ = some .finished ∧
      nextBlock ⟨192, 0#6, 64#8⟩ ⟨.msg, 64⟩ = some (.block ⟨.msg, 128⟩) ∧
      nextBlock ⟨192, 0#6, 64#8⟩ ⟨.msg, 128⟩ = some (.block ⟨.scr, 0⟩) ∧
      nextBlock ⟨192, 0#6, 64#8⟩ ⟨.scr, 0⟩ = some .finished ∧ firstBlock 0 = ⟨.scr, 0⟩ := by decide +kernel

/-- R115 at `LEN_W = 6` (log entry 21): a message of 60 bytes has a second block of `SCR`, at 64. -/
theorem test_block_at_six_bits :
    after (exec .accum { standing 0x7#4 80#7 with params := ⟨6, 63, 0, 0, 0⟩, len := 60, plan := planOf 60 })
      (fun t => (t.block, t.phase)) = some (⟨.scr, 64⟩, 0x4#4) := by decide +kernel

/-! ### Commands -/

/-- V-H1, V-H2: `NOP` changes nothing, as a command and as a write of `CTRL`. -/
theorem test_nop : exec (.nop 0x0000000#28) published = .next published ∧
    exec (.wrCtrl 0xFFFFFFF0#32) published = .next published := ⟨rfl, rfl⟩

/-- V-H3: an accepted `START`. -/
theorem test_start_accepted :
    after (exec (.start 0#28) { published with t := 80#7 })
      (fun t => (t.len, t.phase, t.statusWord, t.digest, t.msgLen, t.t)) =
    some (3, 0x1#4, 0x00000001#32, #v[0#32, 0#32, 0#32, 0#32, 0#32], 3, 80#7) := by decide +kernel

/-- V-H4: a length above `MSG_CAP`. -/
theorem test_start_length_range :
    after (exec (.start 0#28) { published with params := ⟨32, 64, 0, 0, 0⟩, msgLen := 65, len := 3 })
      (fun t => (t.statusWord, t.digest, t.phase, t.len)) =
    some (0x00000022#32, #v[0#32, 0#32, 0#32, 0#32, 0#32], 0x0#4, 3) := by decide +kernel

/-- V-H5: a write of `CTRL` with `OP = 1`, the length equal to `MSG_CAP`. -/
theorem test_wr_ctrl_start :
    after (exec (.wrCtrl 0xFFFFFFF1#32) { sized 64 32 with msgLen := 64 }) (fun t => (t.len, t.statusWord)) =
    some (64, 0x00000001#32) := by decide +kernel

/-- V-H6, V-H7: reserved commands while idle. -/
theorem test_reserved_idle :
    (([.rsvdOp2 0, .rsvdOp3 0, .rsvdOp4 0, .rsvdOp5 0, .rsvdOp6 0, .rsvdOp7 0, .rsvdOp8 0, .rsvdOp9 0, .rsvdOpA 0,
      .rsvdOpB 0, .rsvdOpC 0, .rsvdOpD 0, .rsvdOpE 0, .rsvdOpF 0, .wrCtrl 0x00000007#32] : List Instr).map fun i =>
        after (exec i published) (fun t => (t.statusWord, t.digest))) =
    List.replicate 15 (some (0x00000032#32, #v[0#32, 0#32, 0#32, 0#32, 0#32])) := by decide +kernel

/-- V-H8, V-H9: commands while busy change nothing. -/
theorem test_commands_busy : exec (.start 0#28) busy = .next busy ∧ exec (.rsvdOp7 0#28) busy = .next busy ∧
    exec (.wrCtrl 0x00000001#32) busy = .next busy := ⟨rfl, rfl, rfl⟩

/-- R186: the opcode is looked at before the length. -/
theorem test_illegal_before_length :
    after (exec (.wrCtrl 0x00000007#32) { sized 64 32 with msgLen := 65 }) State.statusWord = some 0x00000032#32 := by
  decide +kernel

/-! ### Register accesses -/

/-- V-H10, V-H11, V-H14: writes of `MSG_LEN_LO` at `LEN_W` 32 and 20, and while busy. -/
theorem test_wr_msg_len_lo :
    after (exec (.wrMsgLenLo 0x00000038#32) idle) State.msgLen = some 56 ∧
    after (exec (.wrMsgLenLo 0x12345678#32) (sized 1024 20)) State.msgLen = some 0x45678 ∧
    after (exec (.wrMsgLenLo 0x00000003#32) { busy with msgLen := 56 }) State.msgLen = some 56 := by decide +kernel

/-- P7: the low word is written over a length above 32 bits, whose high part stays. -/
theorem test_wr_msg_len_lo_wide :
    after (exec (.wrMsgLenLo 0x00000003#32) { sized 64 40 with msgLen := 0x100000010 }) State.msgLen =
    some 0x100000003 := by decide +kernel

/-- V-H12, V-H13: writes of `MSG_LEN_HI` at `LEN_W` 32 and 40. -/
theorem test_wr_msg_len_hi :
    after (exec (.wrMsgLenHi 0x00000001#32) { idle with msgLen := 5 }) State.msgLen = some 5 ∧
    after (exec (.wrMsgLenHi 0x00000101#32) { sized 1024 40 with msgLen := 0x10 }) State.msgLen = some 0x0100000010 := by
  decide +kernel

/-- V-H10, V-H11, P7: reads of `MSG_LEN_LO`. -/
theorem test_rd_msg_len_lo :
    after (exec .rdMsgLenLo { idle with msgLen := 56 }) State.returned = some (.word 0x00000038#32) ∧
    after (exec .rdMsgLenLo { sized 64 40 with msgLen := 0x100000003 }) State.returned = some (.word 0x00000003#32) := by
  decide +kernel

/-- V-H12, V-H13: reads of `MSG_LEN_HI`. -/
theorem test_rd_msg_len_hi :
    after (exec .rdMsgLenHi idle) State.returned = some (.word 0x00000000#32) ∧
    after (exec .rdMsgLenHi { sized 1024 40 with msgLen := 0x0100000010 }) State.returned =
      some (.word 0x00000001#32) := by decide +kernel

/-- R21, R22: `STATUS` while busy, after a digest, and after each error. -/
theorem test_rd_status :
    [busy, published, { idle with done := true, err := 1#4 }, { idle with done := true, err := 2#4 },
      { idle with done := true, err := 3#4 }, idle].map (fun s => after (exec .rdStatus s) State.returned) =
    [some (.word 0x00000001#32), some (.word 0x00000006#32), some (.word 0x00000012#32), some (.word 0x00000022#32),
      some (.word 0x00000032#32), some (.word 0x00000000#32)] := by decide +kernel

/-- V-H18, V-H19: ignored writes. -/
theorem test_ignored_writes : exec (.wrStatus 0xFFFFFFFF#32) published = .next published ∧
    exec (.wrDigest0 0x12345678#32) published = .next published ∧ exec (.wrDigest1 0x12345678#32) published = .next published ∧
    exec (.wrDigest2 0x12345678#32) published = .next published ∧ exec (.wrDigest3 0x12345678#32) published = .next published ∧
    exec (.wrDigest4 0x12345678#32) published = .next published := ⟨rfl, rfl, rfl, rfl, rfl, rfl⟩

/-- V-H20, V-H21, V-H22: `CTRL` and reserved offsets. -/
theorem test_reads_of_zero : exec .rdCtrl published = .next { published with returned := .word 0x00000000#32 } ∧
    exec (.rdRsvd 0x80#8) published = .next { published with returned := .word 0x00000000#32 } ∧
    exec (.wrRsvd 0x40#8 0xFFFFFFFF#32) published = .next published := ⟨rfl, rfl, rfl⟩

/-- V-H23, and the words between (V-D2). -/
theorem test_rd_digest :
    ([.rdDigest0, .rdDigest1, .rdDigest2, .rdDigest3, .rdDigest4] : List Instr).map
      (fun i => after (exec i published) State.returned) =
    [some (.word 0xA9993E36#32), some (.word 0x4706816A#32), some (.word 0xBA3E2571#32), some (.word 0x7850C26C#32),
      some (.word 0x9CD0D89D#32)] := by decide +kernel

/-! ### Byte accesses -/

/-- V-H16, V-H15: a byte is stored while idle and dropped while busy. -/
theorem test_wr_msg :
    after (exec (.wrMsg 2 0x63#8) idle) (fun t => (t.mem.read 2, t.mem.read 1)) = some (some 0x63#8, none) ∧
    after (exec (.wrMsg 0 0x62#8) busy) (fun t => t.mem.read 0) = some (some 0x61#8) := by decide +kernel

/-- R99: bytes written out of order, one of them twice, are kept in address order. -/
theorem test_wr_msg_canonical :
    (((Memory.write [] 5 0x01#8).write 2 0x02#8).write 5 0x03#8).write 3 0x00#8 =
    [(2, 0x02#8), (3, 0x00#8), (5, 0x03#8)] := by decide +kernel

/-- V-H16, V-H17: a written byte is returned, an unwritten one faults. -/
theorem test_rd_msg :
    after (exec (.rdMsg 2) abc) State.returned = some (.byte 0x63#8) ∧
    faultOf (exec (.rdMsg 5) abc) = some .unwrittenMsgRead := by decide +kernel

/-- V-H24: bytes of the digest, most significant first. -/
theorem test_rd_out :
    [0, 3, 4, 19].map (fun k => after (exec (.rdOut k) published) State.returned) =
    [some (.byte 0xA9#8), some (.byte 0x36#8), some (.byte 0x47#8), some (.byte 0x9D#8)] := by decide +kernel

/-! ### Micro-steps -/

/-- R111, R112. -/
theorem test_init :
    after (exec .init (standing 0x1#4 0#7)) (fun t => (t.h, t.phase)) = some (iv, 0x2#4) := by decide +kernel

/-- Section 3.2, "abc": the plan and the bytes that are not zero. -/
theorem test_pad :
    after (exec .pad { standing 0x2#4 0#7 with scr := Vector.replicate 128 0xFF#8 })
      (fun t => (t.plan, t.phase, [t.scr[0], t.scr[2], t.scr[3], t.scr[4], t.scr[62], t.scr[63], t.scr[64], t.scr[127]])) =
    some (⟨0, 3#6, 64#8⟩, 0x3#4, [0x61#8, 0x63#8, 0x80#8, 0x00#8, 0x00#8, 0x18#8, 0x00#8, 0x00#8]) := by decide +kernel

/-- R188: a tail byte nothing has written. -/
theorem test_pad_unwritten :
    faultOf (exec .pad { standing 0x2#4 0#7 with len := 4 }) = some .unwrittenMsgRead := by decide +kernel

/-- V-C1, V-C3: a consistent plan selects the first block. -/
theorem test_check :
    after (exec .check (standing 0x3#4 0#7)) (fun t => (t.block, t.phase)) = some (⟨.scr, 0⟩, 0x4#4) ∧
    after (exec .check { standing 0x3#4 0#7 with len := 64, plan := ⟨64, 0#6, 64#8⟩ }) (fun t => (t.block, t.phase)) =
      some (⟨.msg, 0⟩, 0x4#4) := by decide +kernel

/-- V-C4: an inconsistent plan. -/
theorem test_check_fails :
    after (exec .check { standing 0x3#4 0#7 with len := 56, plan := ⟨0, 56#6, 64#8⟩, digest := abcDigest })
      (fun t => (t.statusWord, t.digest, t.phase)) =
    some (0x00000012#32, #v[0#32, 0#32, 0#32, 0#32, 0#32], 0x0#4) := by decide +kernel

/-- V-M1. -/
theorem test_load :
    after (exec .load (standing 0x4#4 0#7))
      (fun t => ([t.w[0], t.w[1], t.w[14], t.w[15]], t.regs, t.t, t.phase)) =
    some ([0x61626380#32, 0#32, 0#32, 0x00000018#32],
      ⟨0x67452301#32, 0xEFCDAB89#32, 0x98BADCFE#32, 0x10325476#32, 0xC3D2E1F0#32⟩, 16#7, 0x5#4) := by decide +kernel

/-- R158, R188: the block from `MSG` at an offset, of which a byte is unwritten. -/
theorem test_load_unwritten :
    faultOf (exec .load { standing 0x4#4 0#7 with block := ⟨.msg, 0⟩ }) = some .unwrittenMsgRead := by decide +kernel

/-- V-M2. -/
theorem test_expand :
    after (exec .expand { standing 0x5#4 16#7 with w := (Vector.replicate 80 0#32).set 0 0x80000000#32 })
      (fun t => (t.w[16], t.w[15], t.t, t.phase)) = some (0x00000001#32, 0#32, 17#7, 0x5#4) := by decide +kernel

/-- V-M4, with the words 63, 65, 71 and 76 of section 5.1, which give `W[79] = 822E0879`. -/
theorem test_expand_last :
    after (exec .expand
        { standing 0x5#4 79#7 with
          w := ((((Vector.replicate 80 0#32).set 63 0x627B49A1#32).set 65 0x000F0000#32).set 71 0x458546F4#32).set 76
            0xE6E60B69#32 })
      (fun t => (t.w[79], t.t, t.phase)) = some (0x822E0879#32, 0#7, 0x6#4) := by decide +kernel

/-- V-M6, V-K2: rounds 0 and 19. -/
theorem test_round_00_19 :
    after (exec .round0019
        { standing 0x6#4 0#7 with
          regs := ⟨0x67452301#32, 0xEFCDAB89#32, 0x98BADCFE#32, 0x10325476#32, 0xC3D2E1F0#32⟩
          w := (Vector.replicate 80 0#32).set 0 0x61626380#32 })
      (fun t => (t.regs, t.t, t.phase)) =
    some (⟨0x0116FC33#32, 0x67452301#32, 0x7BF36AE2#32, 0x98BADCFE#32, 0x10325476#32⟩, 1#7, 0x6#4) ∧
    after (exec .round0019 (standing 0x6#4 19#7)) (fun t => (t.regs.a, t.t)) = some (0x5A827999#32, 20#7) := by
  decide +kernel

/-- V-K3, V-K4: rounds 20 and 39 from the zero state. -/
theorem test_round_20_39 :
    after (exec .round2039 (standing 0x6#4 20#7)) (fun t => (t.regs.a, t.t)) = some (0x6ED9EBA1#32, 21#7) ∧
    after (exec .round2039 (standing 0x6#4 39#7)) (fun t => (t.regs.a, t.t)) = some (0x6ED9EBA1#32, 40#7) := by
  decide +kernel

/-- V-M8, V-K6: rounds 40 and 59. -/
theorem test_round_40_59 :
    after (exec .round4059
        { standing 0x6#4 40#7 with regs := ⟨0x67452301#32, 0xF0F0F0F0#32, 0xFF00FF00#32, 0xAAAAAAAA#32, 0#32⟩ })
      (fun t => (t.regs, t.t)) =
    some (⟨0x726117A8#32, 0x67452301#32, 0x3C3C3C3C#32, 0xFF00FF00#32, 0xAAAAAAAA#32⟩, 41#7) ∧
    after (exec .round4059 (standing 0x6#4 59#7)) (fun t => t.regs.a) = some 0x8F1BBCDC#32 := by decide +kernel

/-- V-M9, V-K7: rounds 79 and 60. -/
theorem test_round_60_79 :
    after (exec .round6079
        { standing 0x6#4 79#7 with regs := ⟨1#32, 2#32, 3#32, 4#32, 5#32⟩, w := (Vector.replicate 80 0#32).set 79 6#32 })
      (fun t => (t.regs, t.t, t.phase)) =
    some (⟨0xCA62C206#32, 0x00000001#32, 0x80000000#32, 0x00000003#32, 0x00000004#32⟩, 80#7, 0x7#4) ∧
    after (exec .round6079 (standing 0x6#4 60#7)) (fun t => t.regs.a) = some 0xCA62C1D6#32 := by decide +kernel

/-- V-M10. -/
theorem test_accum :
    after (exec .accum
        { standing 0x7#4 80#7 with
          regs := ⟨0x42541B35#32, 0x5738D5E1#32, 0x21834873#32, 0x681E6DF6#32, 0xD8FDF6AD#32⟩ })
      (fun t => (t.h, t.phase)) = some (abcDigest, 0x8#4) := by decide +kernel

/-- V-M11. -/
theorem test_accum_wraps :
    after (exec .accum
        { standing 0x7#4 80#7 with
          h := #v[0xFFFFFFFF#32, 0x00000000#32, 0x80000000#32, 0x00000001#32, 0x7FFFFFFF#32]
          regs := ⟨0x00000001#32, 0xFFFFFFFF#32, 0x80000000#32, 0xFFFFFFFF#32, 0x80000001#32⟩
          block := ⟨.msg, 0⟩, plan := ⟨128, 0#6, 64#8⟩ })
      (fun t => (t.h, t.block, t.phase)) =
    some (#v[0x00000000#32, 0xFFFFFFFF#32, 0x00000000#32, 0x00000000#32, 0x00000000#32], ⟨.msg, 64⟩, 0x4#4) := by
  decide +kernel

/-- R116, end of section 5.1: `SERIAL` after the last block of "abc". -/
theorem test_serial :
    after (exec .serial { standing 0x8#4 80#7 with h := abcDigest })
      (fun t => (t.statusWord, t.digest, t.phase, outByte t.digest 0, outByte t.digest 19)) =
    some (0x00000006#32, abcDigest, 0x0#4, 0xA9#8, 0x9D#8) := by decide +kernel

/-! ### The step -/

/-- V-H26, V-H27: refused accesses. -/
theorem test_refused_accesses :
    [access .reg 0x04 16 .read 0#32, access .reg 0x06 32 .read 0#32, access .msg 0 32 .read 0#32,
      access .msg 64 8 .write 0#32, access .out 20 8 .read 0#32, access .out 0 8 .write 0#32].map
      (fun s => refusalOf (step s)) =
    [some .misalignedOrWide, some .misalignedOrWide, some .misalignedOrWide, some .outOfWindow, some .outOfWindow,
      some .outOfWindow] := by decide +kernel

/-- V-H28: a reset during an operation. -/
theorem test_reset :
    after (step { busy with inbox := [.reset] })
      (fun t => ((t.statusWord, t.msgLen, t.digest, t.phase), t.mem.length, t.marks.h)) =
    some ((0x00000000#32, 0, #v[0#32, 0#32, 0#32, 0#32, 0#32], 0x0#4), 0, false) := by decide +kernel

/-- R77: the engine's own step, scheduled and unscheduled; R60: an access by its platform address. -/
theorem test_step :
    after (step (standing 0x6#4 20#7)) (fun t => t.t) = some 21#7 ∧
    after (step { standing 0x6#4 20#7 with inbox := [.engine, .reset] }) (fun t => (t.t, t.inbox)) =
      some (21#7, [.reset]) ∧
    after (step { abc with inbox := [.platform 0x2001 8 .read 0#32] }) (fun t => (t.returned, t.inbox)) =
      some (.byte 0x62#8, []) := by decide +kernel

/-- The fixed names run from reset: a command, a register read and a micro-step. -/
theorem test_with_fetch_word :
    decodeTableWord 8 0x1 = some (.start 0#28) ∧ decodeTableWord 8 0x10 = some .rdDigest0 ∧
    decodeTableWord 4 0x6 = some .round0019 ∧
    after (step (State.reset.withFetchWord 8 0x1)) State.statusWord = some 0x00000001#32 ∧
    after (step (State.reset.withFetchWord 4 0x1)) (fun t => t.phase) = some 0x2#4 := by decide +kernel

/-! ### Witnesses: states and operands that meet the hypotheses of the statements -/

/-- The busy states of the tests meet the invariant, wherever the engine stands in the sequence. -/
theorem standing_inv (p : BitVec 4) (t : BitVec 7) (hp : p.toNat ≤ 8)
    (he : p = Phase.expand → 16 ≤ t.toNat ∧ t.toNat ≤ 79) (hr : p = Phase.round → t.toNat ≤ 79) : (standing p t).Inv :=
  have planned : (standing p t).planned := ⟨rfl, rfl, rfl, by show (⟨0, 3#6, 64#8⟩ : Plan) = planOf 3; decide +kernel⟩
  have onBlock : (standing p t).onBlock := ⟨planned, rfl, .inr ⟨rfl, .inl rfl⟩⟩
  have words (n : Nat) : (standing p t).wordsWritten n := fun j _ => Vector.getElem_replicate j.isLt
  { params := by show Params.Valid ⟨32, 1024, 0x1000, 0x2000, 0x3000⟩; decide
    memWf := by show Memory.wf [(0, 0x61#8), (1, 0x62#8), (2, 0x63#8)]; decide
    memCap := by show ∀ c ∈ [((0 : Nat), 0x61#8), (1, 0x62#8), (2, 0x63#8)], c.1 < 1024; decide
    msgLen := by show 3 < 2 ^ 32; decide
    len := by show 3 < 2 ^ 32; decide
    fullEnd := Nat.two_pow_pos 32
    offset := .inl (Nat.two_pow_pos 32)
    status := ⟨fun _ => ⟨rfl, rfl, rfl⟩, fun h => Bool.noConfusion h, fun h => absurd rfl h, fun h => Bool.noConfusion h,
      Nat.zero_lt_succ 3⟩
    digest := fun _ => rfl
    busyLen := fun _ => ⟨rfl, by show 3 ≤ 1024; decide⟩
    sequenced := ⟨hp, fun _ => rfl, fun _ => planned, fun _ => onBlock,
      fun h => ⟨onBlock, rfl, (he h).1, (he h).2, words _⟩, fun h => ⟨onBlock, rfl, hr h, words _⟩,
      fun _ => ⟨onBlock, rfl⟩, fun _ => rfl⟩ }

/-- The invariant holds at the first and the last index of `EXPAND` and of `ROUND`, and at the other phases. -/
theorem witness_invariant_busy :
    busy.Inv ∧ (standing 0x2#4 0#7).Inv ∧ (standing 0x3#4 0#7).Inv ∧ (standing 0x4#4 0#7).Inv ∧ (standing 0x5#4 16#7).Inv ∧
      (standing 0x5#4 79#7).Inv ∧ (standing 0x6#4 0#7).Inv ∧ (standing 0x6#4 79#7).Inv ∧ (standing 0x7#4 80#7).Inv ∧
      (standing 0x8#4 80#7).Inv := by
  refine ⟨?_, ?_, ?_, ?_, ?_, ?_, ?_, ?_, ?_, ?_⟩ <;> exact standing_inv _ _ (by decide) (by decide) (by decide)

/-- `EncodedInstructionDecodesBack`, `DecodedCodeIsTheEncodingRead`: the operands at the ends of their ranges, and codes of each
format that decode. -/
theorem witness_encoding :
    ([.wrMsg 1023 0xFF#8, .rdMsg 0, .rdOut 19, .rdRsvd 0xFC#8, .wrRsvd 0x24#8 1#32] : List Instr).map
      (Instr.wellFormed ⟨32, 1024, 0, 0, 0⟩) = List.replicate 5 true ∧
    decode ⟨32, 1024, 0, 0, 0⟩ (.cmd 0xFFFFFFF1#32) = .ok (.start 0xFFFFFFF#28) ∧
    decode ⟨32, 1024, 0, 0, 0⟩ (.bus ⟨.msg, 1023, 8, .write, 0xFFFFFF63#32⟩) = .ok (.wrMsg 1023 0x63#8) ∧
    decode ⟨32, 1024, 0, 0, 0⟩ (.phase 0x6#4 79#7) = .ok .round6079 ∧ 3 ≤ (⟨32, 3, 0, 0, 0⟩ : Params).msgCap :=
  ⟨rfl, rfl, rfl, rfl, Nat.le_refl 3⟩

/-- `StepRunsTheDecodedInstruction`: each way an instruction arrives. -/
theorem witness_step_runs :
    (({ idle with inbox := [.cmd 1#32] } : State).inbox = [.cmd 1#32] ∧ decode idle.params (.cmd 1#32) = .ok (.start 0#28)) ∧
    decode idle.params (.bus ⟨.reg, 0x04, 32, .read, 0#32⟩) = .ok .rdStatus ∧
    idle.params.locate 0x23FF = some (.msg, 1023) ∧ decode idle.params (.bus ⟨.msg, 1023, 8, .read, 0#32⟩) = .ok (.rdMsg 1023) ∧
    busy.inbox = [] ∧ decode busy.params (.phase busy.phase busy.t) = .ok .init := ⟨⟨rfl, rfl⟩, rfl, rfl, rfl, rfl, rfl⟩

/-- `EngineStepIsTheMicroStepOfPhase`, `EveryMicroStepIsEnabled`, `OnlyUnwrittenMessageBytesFault`,
`EveryStepKeepsTheInvariant`: a busy state with nothing scheduled, whose message is written. -/
theorem witness_engine : (standing 0x6#4 59#7).Inv ∧ (standing 0x6#4 59#7).inbox = [] ∧ (standing 0x6#4 59#7).phase ≠ 0x0#4 ∧
    (∀ a, a < (standing 0x6#4 59#7).len → (standing 0x6#4 59#7).mem.read a ≠ none) ∧
    (after (step (standing 0x6#4 59#7)) (fun t => t.t)).isSome = true :=
  ⟨standing_inv _ _ (by decide) (by decide) (by decide), rfl, by decide, by decide, rfl⟩

/-- `OnlyUnwrittenMessageBytesFault`: a state that meets the invariant and faults. -/
theorem witness_fault :
    State.Inv { standing 0x6#4 0#7 with inbox := [.bus ⟨.msg, 5, 8, .read, 0#32⟩] } ∧
    step { standing 0x6#4 0#7 with inbox := [.bus ⟨.msg, 5, 8, .read, 0#32⟩] } = .fault .unwrittenMsgRead :=
  have h : (standing 0x6#4 0#7).Inv := standing_inv _ _ (by decide) (by decide) (by decide)
  ⟨⟨h.params, h.memWf, h.memCap, h.msgLen, h.len, h.fullEnd, h.offset, h.status, h.digest, h.busyLen, h.sequenced⟩, rfl⟩

/-- `BadPhaseFaultsAndIsNeverReached`: each way to a bad phase, at the boundary, and a step from a state that meets the
invariant. -/
theorem witness_bad_phase :
    [standing 0x9#4 0#7, standing 0xF#4 0#7, standing 0x5#4 15#7, standing 0x5#4 80#7, standing 0x6#4 80#7].map
      (fun s => (s.inbox.length, faultOf (step s))) = List.replicate 5 (0, some .badPhase) := by decide +kernel

/-- `IdleEngineTakesNoStep`, `ResetClearsTheEngine`: an idle machine, with and without an entry. -/
theorem witness_idle : idle.phase = 0x0#4 ∧ idle.inbox = [] ∧
    ({ idle with inbox := [.engine, .reset] } : State).inbox = .engine :: [.reset] ∧
    ({ busy with inbox := [.reset] } : State).inbox = .reset :: [] := ⟨rfl, rfl, rfl, rfl⟩

/-- `MisalignedOrWideAccessIsRefused`, `ReservedOffsetsAndWindows`: the boundaries of each clause, and accesses that break both rules
(log entry 10). -/
theorem witness_windows :
    [access .reg 0x04 31 .read 0#32, access .reg 0xFF 32 .write 0#32, access .out 0 9 .read 0#32].map
      (fun s => refusalOf (step s)) = List.replicate 3 (some .misalignedOrWide) ∧
    [access .msg 64 16 .read 0#32, access .out 0 32 .write 0#32].map (fun s => refusalOf (step s)) =
      List.replicate 2 (some .misalignedOrWide) ∧
    [access .reg 0x24 32 .read 0#32, access .reg 0xFC 32 .read 0#32].map (fun s => after (step s) State.returned) =
      List.replicate 2 (some (.word 0x00000000#32)) ∧
    after (step (access .reg 0xFC 32 .write 1#32)) State.returned = some .nothing ∧
    [access .msg 64 8 .read 0#32, access .out 20 8 .read 0#32].map (fun s => refusalOf (step s)) =
      List.replicate 2 (some .outOfWindow) := by decide +kernel

/-- `StartBeginsAnOperation`, `ReservedCommandIsIllegalWhileIdle`, `CommandsWhileBusyAreIgnored`: idle with the length at `MSG_CAP`
and one above it, and busy. -/
theorem witness_commands :
    ({ idle with msgLen := 1024 } : State).phase = 0x0#4 ∧ ({ idle with msgLen := 1024 } : State).msgLen ≤ idle.params.msgCap ∧
    idle.params.msgCap < ({ idle with msgLen := 1025 } : State).msgLen ∧ busy.phase ≠ 0x0#4 ∧
    Instr.rsvdOpF 0#28 ∈ [Instr.start 0#28, .rsvdOpF 0#28] :=
  ⟨rfl, Nat.le_refl 1024, Nat.lt_succ_self 1024, by decide, .tail _ (.head _)⟩

/-- `AccessesWithoutEffect`: the first and the last reserved offset. -/
theorem witness_reserved_offsets :
    (0x24 ≤ (0x24#8).toNat ∧ (0x24#8).toNat ≤ 0xFC ∧ (0x24#8).toNat % 4 = 0) ∧
    (0x24 ≤ (0xFC#8).toNat ∧ (0xFC#8).toNat ≤ 0xFC ∧ (0xFC#8).toNat % 4 = 0) := by decide

/-- `WriteMsgLenLo`, `WriteMsgLenHi`, `ReadMsgLen`, `MsgLenReadsBack`: idle machines at `LEN_W` 31, 32, 33 and 61, and a busy one. -/
theorem witness_lengths :
    [sized 64 31, sized 64 32, sized 64 33, sized 64 61].map (fun s => decide (s.phase = 0x0#4 ∧ s.params.Valid ∧
      s.msgLen < 2 ^ s.params.lenW)) = List.replicate 4 true ∧
    (sized 64 31).params.lenW < 32 ∧ 32 ≤ (sized 64 32).params.lenW ∧ 32 < (sized 64 33).params.lenW ∧ busy.phase ≠ 0x0#4 := by
  decide +kernel

/-- `ReadDigest`, `ReadOutputByte`, `StatusTakesSixValues`, `CheckNeverFailsAfterPad`: a busy state, with `VALID = 0` and no error,
that meets the invariant and takes a step. -/
theorem witness_no_digest : busy.Inv ∧ busy.phase ≠ 0x0#4 ∧ busy.valid = false ∧ busy.err ≠ 1#4 ∧
    (after (step busy) (fun t => t.t)).isSome = true :=
  ⟨standing_inv _ _ (by decide) (by decide) (by decide), by decide, rfl, by decide, rfl⟩

/-- `ReadDigest`, `ReadOutputByte`: a state that meets the invariant after an error, its digest zero. -/
theorem witness_error : State.Inv { abc with done := true, err := 3#4 } ∧ ({ abc with done := true, err := 3#4 } : State).err ≠ 0#4 :=
  have h : (standing 0x1#4 0#7).Inv := standing_inv _ _ (by decide) (by decide) (by decide)
  ⟨⟨h.params, h.memWf, h.memCap, h.msgLen, Nat.two_pow_pos 32, Nat.two_pow_pos 32, .inl (Nat.two_pow_pos 32),
    ⟨fun h => absurd rfl h, fun h => Bool.noConfusion h, fun _ => ⟨rfl, rfl⟩, fun _ => .inr (by decide), by decide⟩, fun _ => rfl,
    fun h => absurd rfl h,
    ⟨by decide, fun h => absurd h (by decide), fun h => absurd h (by decide), fun h => absurd h (by decide),
      fun h => absurd h (by decide), fun h => absurd h (by decide), fun h => absurd h (by decide),
      fun h => absurd h (by decide)⟩⟩, by decide⟩

/-- `WriteMessageByte`, `ReadMessageByte`: the last byte of the window, idle and busy; a written and an unwritten byte. -/
theorem witness_message_bytes :
    1023 < abc.params.msgCap ∧ abc.phase = 0x0#4 ∧ 1023 < busy.params.msgCap ∧ busy.phase ≠ 0x0#4 ∧
    abc.mem.read 2 = some 0x63#8 ∧ abc.mem.read 1023 = none := by decide +kernel

/-- `ReadsHaveNoSideEffect`, `OnlyMessageWritesChangeMemory`: reads that complete. -/
theorem witness_reads : exec (.rdMsg 2) abc = .next { abc with returned := .byte 0x63#8 } ∧
    exec .rdStatus published = .next { published with returned := .word 0x00000006#32 } ∧
    ∀ b, Instr.rdMsg 2 ≠ .wrMsg 2 b := ⟨rfl, rfl, fun _ h => Instr.noConfusion h⟩

/-- `PadBuildsThePaddedRegion`, `PaddedRegionCompletesTheMessage`, `CheckNeverFailsAfterPad`: a tail that is written, a tail of 55 and
of 56 bytes, and a tail byte that is not written. -/
theorem witness_pad :
    (∀ k, k < 3 → (standing 0x2#4 0#7).mem.read (0 + k) = [0x61#8, 0x62#8, 0x63#8][k]?) ∧
    ((55 - 55 / 64 * 64 ≤ 55 ∧ planOf 55 = ⟨0, 55#6, 64#8⟩) ∧ (¬ 56 - 56 / 64 * 64 ≤ 55 ∧ planOf 56 = ⟨0, 56#6, 128#8⟩)) ∧
    (after (exec .pad (standing 0x2#4 0#7)) (fun t => t.phase)).isSome = true ∧
    abc.mem.read (0 + 3) = none := by decide +kernel

/-- `CheckValidatesThePlan`: a consistent and an inconsistent plan (V-C2, V-C4). -/
theorem witness_check :
    (standing 0x3#4 0#7).marks.plan = true ∧ Consistent 56 0 56 128 ∧ ¬ Consistent 56 0 56 64 := by decide +kernel

/-- A machine whose `MSG` holds one whole block of a byte, loading it. -/
def loading : State :=
  { standing 0x4#4 0#7 with mem := (List.range 64).map (fun k => (k, 0x61#8)), block := ⟨.msg, 0⟩ }

/-- `LoadReadsOneBlock`: a block in `MSG`, each block of `SCR`, and a block of `MSG` with an unwritten byte. -/
theorem witness_load :
    (loading.marks.block = true ∧ loading.marks.h = true ∧ loading.block.src = .msg ∧
      ∀ k : Fin 64, loading.mem.read (loading.block.off + k.val) = some (Vector.replicate 64 0x61#8)[k]) ∧
    ((standing 0x4#4 0#7).block.src = .scr ∧ (standing 0x4#4 0#7).marks.scr = true ∧
      ∀ k : Fin 64, (standing 0x4#4 0#7).scr[0 + k.val]? = some (scratchByte 3 [0x61#8, 0x62#8, 0x63#8] k.val)) ∧
    (64 + 64 ≤ 128 ∧ ∀ k : Fin 64, (standing 0x4#4 0#7).scr[64 + k.val]? = some (Vector.replicate 64 0x00#8)[k]) ∧
    { loading with mem := loading.mem.take 63 }.mem.read (0 + 63) = none := by decide +kernel

/-- `ExpandComputesOneWord`, `RoundPerformsTheAssignment`: the first and the last index, everything read being written. -/
theorem witness_indices :
    [((16 : Fin 80), standing 0x5#4 16#7), (79, standing 0x5#4 79#7), (0, standing 0x6#4 0#7), (19, standing 0x6#4 19#7),
      (20, standing 0x6#4 20#7), (39, standing 0x6#4 39#7), (40, standing 0x6#4 40#7), (59, standing 0x6#4 59#7),
      (60, standing 0x6#4 60#7), (79, standing 0x6#4 79#7)].map (fun x => decide (x.1.val = x.2.t.toNat ∧
        x.2.marks.regs = true ∧ x.2.marks.w[x.1] = true ∧ x.2.marks.w[x.1.val - 3] = true ∧ x.2.marks.w[x.1.val - 8] = true ∧
        x.2.marks.w[x.1.val - 14] = true ∧ x.2.marks.w[x.1.val - 16] = true)) = List.replicate 10 true := by decide +kernel

/-- `AccumAddsAndChoosesTheNextBlock`: each way the next block is chosen. -/
theorem witness_accum :
    [(⟨.msg, 0⟩, ⟨128, 0#6, 64#8⟩), (⟨.msg, 64⟩, ⟨128, 0#6, 64#8⟩), (⟨.scr, 0⟩, ⟨0, 56#6, 128#8⟩), (⟨.scr, 0⟩, ⟨0, 3#6, 64#8⟩),
      (⟨.scr, 64⟩, ⟨0, 56#6, 128#8⟩)].map (fun x : Block × Plan =>
        after (exec .accum { standing 0x7#4 80#7 with block := x.1, plan := x.2 }) (fun t => (t.block, t.phase))) =
    [some (⟨.msg, 64⟩, 0x4#4), some (⟨.scr, 0⟩, 0x4#4), some (⟨.scr, 64⟩, 0x4#4), some (⟨.scr, 0⟩, 0x8#4),
      some (⟨.scr, 64⟩, 0x8#4)] := by decide +kernel

/-- A machine in which no internal item has been written. -/
def unwritten (t : BitVec 7) : State := { standing 0x6#4 t with marks := ⟨false, false, false, false, false, Vector.replicate 80 false⟩ }

/-- `SerialPublishesTheDigest`, `UnwrittenInternalReadFaults`: the accumulator written, nothing written, and a `LOAD` of an unwritten
block of `MSG` with the accumulator unwritten (log entry 14). -/
theorem witness_marks :
    (standing 0x8#4 80#7).marks.h = true ∧
    [exec .serial (unwritten 80#7), exec .check (unwritten 0#7), exec .load (unwritten 0#7), exec .expand (unwritten 16#7),
      exec .round0019 (unwritten 0#7), exec .round2039 (unwritten 20#7), exec .round4059 (unwritten 40#7),
      exec .round6079 (unwritten 79#7), exec .accum (unwritten 80#7),
      exec .load { unwritten 0#7 with marks := { (unwritten 0#7).marks with h := true, block := true } },
      exec .load { unwritten 0#7 with marks := { (unwritten 0#7).marks with block := true }, block := ⟨.msg, 0⟩ }].map faultOf =
    List.replicate 11 (some .unwrittenInternalRead) := by decide +kernel

/-- `RotationMovesEveryBit`: the ends of both ranges. -/
theorem witness_rotation : (1 ≤ 1 ∧ 1 ≤ 31 ∧ 0 < 32) ∧ (1 ≤ 31 ∧ 31 ≤ 31 ∧ 31 < 32) ∧
    (rotl 0x80000000#32 1).getLsbD 0 = (0x80000000#32).getLsbD ((0 + 32 - 1) % 32) := by decide +kernel

/-- `OnlyStartErrorsAndSerialWriteTheDigest`: an instruction that changes the digest to zero, and one that publishes. -/
theorem witness_digest_writes :
    after (exec (.start 0#28) published) (fun t => decide (t.digest ≠ published.digest)) = some true ∧
    after (exec .serial (standing 0x8#4 80#7)) (fun t => decide (t.digest ≠ (standing 0x8#4 80#7).digest)) = some true := by
  decide +kernel

/-- `HostCannotDisturbABusyEngine`, `HostAccessCommutesWithMicroStep`: a host access and a micro-step of a busy engine. -/
theorem witness_concurrent :
    Instr.isMicroStep (.wrMsg 0 0#8) = false ∧ Instr.isMicroStep .init = true ∧ busy.phase ≠ 0x0#4 ∧
    (after (exec (.wrMsg 0 0#8) busy) (fun t => t.phase)).isSome = true ∧
    after (exec .init busy) (fun t => t.phase) = some 0x2#4 := by decide +kernel

/-- `EndIsPublishedInOneStep`: the last micro-step of an operation. -/
theorem witness_end : (standing 0x8#4 80#7).Inv ∧ (standing 0x8#4 80#7).done = false ∧
    after (step (standing 0x8#4 80#7)) State.done = some true :=
  ⟨standing_inv _ _ (by decide) (by decide) (by decide), rfl, rfl⟩

/-- `OneBlockIsCompressed`: a block ready to be loaded. -/
theorem witness_block : (standing 0x4#4 0#7).Inv ∧ (standing 0x4#4 0#7).inbox = [] ∧ (standing 0x4#4 0#7).phase = 0x4#4 ∧
    (match readBlock (standing 0x4#4 0#7) with | .ok x => x.length | .error _ => 0) = 64 :=
  ⟨standing_inv _ _ (by decide) (by decide) (by decide), rfl, rfl, by decide +kernel⟩

/-- `OperationPublishesTheDigest`, `OperationTakesCountedMicroSteps`, `EveryScheduleGivesTheDigest`: "abc" in `MSG`, idle. -/
theorem witness_operation :
    abc.params.Valid ∧ abc.phase = 0x0#4 ∧ abc.inbox = [] ∧ abc.msgLen = [0x61#8, 0x62#8, 0x63#8].length ∧
    abc.msgLen ≤ abc.params.msgCap ∧ (∀ k, k < 3 → abc.mem.read k = [0x61#8, 0x62#8, 0x63#8][k]?) ∧
    1 = (abc.msgLen + 8) / 64 + 1 ∧ 150 ≤ 4 + 146 * 1 ∧
    Event.reset ∉ ({ abc with inbox := [.cmd 1#32, .engine, .bus ⟨.msg, 0, 8, .write, 0x62#32⟩] } : State).inbox := by
  decide +kernel

/-- R12: a platform after reset has an engine for each set of parameters, and none is no platform. -/
theorem test_platform_reset :
    (Platform.reset [⟨32, 64, 0, 0, 0⟩, ⟨40, 64, 0, 0, 0⟩]).engines.map (fun s => s.params.lenW) = [32, 40] ∧
    (Platform.reset [⟨32, 64, 0, 0, 0⟩]).Valid ∧ ¬ (Platform.reset []).Valid := by decide +kernel

/-- `EnginesShareNothing`: a platform of two engines, of which the second takes a step. -/
theorem witness_platform :
    (match Platform.step ⟨[idle, busy]⟩ 1 with
     | .next p => some p.nEngines
     | .fault _ => none
     | .refused _ => none) = some 2 := by decide +kernel

end Sys2Proof.Tests
end

section
/-! PROOFS. Family 00_scope: the step and its schedule (R19, R62, R110), the state after reset (R200), and separate engines
(R12, R69, R192). -/

namespace Sys2Proof.Machine

/-! ### The step of an entry of the schedule -/

/-- An entry at the head of the schedule runs the instruction it is fetched as. -/
theorem step_of_fetchEvent_run {s u : State} {e : Event} {rest : List Event} {i : Instr} (hs : s.inbox = e :: rest)
    (h : fetchEvent e (s.setInbox rest) = .run i u) : step s = exec i u := by
  simp [step, fetch, hs, h]

/-- A scheduled command runs what its word decodes to. -/
theorem step_cmd_of_decode {s : State} {w : Word} {rest : List Event} {i : Instr} (hs : s.inbox = .cmd w :: rest)
    (h : decode s.params (.cmd w) = .ok i) : step s = exec i (s.setInbox rest) :=
  step_of_fetchEvent_run hs (fetchCode_ok (s := s.setInbox rest) h)

/-- A scheduled bus access runs what it decodes to. -/
theorem step_bus_of_decode {s : State} {a : Access} {rest : List Event} {i : Instr} (hs : s.inbox = .bus a :: rest)
    (h : decode s.params (.bus a) = .ok i) : step s = exec i (s.setInbox rest) :=
  step_of_fetchEvent_run hs (fetchCode_ok (s := s.setInbox rest) h)

/-- A platform address in a window is fetched as the bus access to its location there (R60). -/
theorem fetchPlatform_of_locate {s : State} {addr width loc : Nat} {dir : Dir} {data : Word} {space : Space}
    (h : s.params.locate addr = some (space, loc)) :
    fetchPlatform addr width dir data s = fetchCode (.bus ⟨space, loc, width, dir, data⟩) s := by
  simp [fetchPlatform, h]

/-- A scheduled access by platform address runs what the access to its window decodes to (R60). -/
theorem step_platform_of_decode {s : State} {addr width loc : Nat} {dir : Dir} {data : Word} {space : Space}
    {rest : List Event} {i : Instr} (hs : s.inbox = .platform addr width dir data :: rest)
    (hl : s.params.locate addr = some (space, loc))
    (h : decode s.params (.bus ⟨space, loc, width, dir, data⟩) = .ok i) : step s = exec i (s.setInbox rest) :=
  step_of_fetchEvent_run hs
    ((fetchPlatform_of_locate (s := s.setInbox rest) hl).trans (fetchCode_ok (s := s.setInbox rest) h))

/-! ### The state after reset -/

/-- The parameters of the machine after reset are within the bounds of R9 and R10, whatever `MSG_CAP` is. -/
theorem State.reset_params_valid : State.reset.params.Valid :=
  ⟨by decide, by decide, Nat.succ_pos _, Nat.succ_le_of_lt Config.msgCapPred.isLt⟩

/-- While the digest is cleared, every byte of `OUT` reads zero (R98, R101). -/
@[simp] theorem outByte_zeroDigest (k : Nat) : outByte zeroDigest k = 0#8 := by
  have hword : (zeroDigest[k / 4]?).getD 0#32 = 0#32 := by
    by_cases h : k / 4 < 5 <;> simp [zeroDigest, h]
  rw [outByte, hword, BitVec.extractLsb'_zero]

/-! ### Separate engines -/

/-- Only a platform with an engine takes a step (R12). -/
theorem Platform.valid_of_step_next {p p' : Platform} {k : Nat} (h : p.step k = .next p') : p.Valid := by
  obtain ⟨s, t, hs, -, -⟩ := Platform.step_next h
  have hk : k < p.nEngines := (List.getElem?_eq_some_iff.mp hs).1
  exact Nat.one_le_of_lt hk

/-- No step changes `N_ENGINES` (R12, R192). -/
theorem Platform.step_next_nEngines {p p' : Platform} {k : Nat} (h : p.step k = .next p') : p'.nEngines = p.nEngines := by
  obtain ⟨s, t, -, -, rfl⟩ := Platform.step_next h
  exact List.length_set

/-- A step of one engine leaves every other one as it is (R69). -/
theorem Platform.step_next_engine_ne {p p' : Platform} {j k : Nat} (h : p.step k = .next p') (hjk : j ≠ k) :
    p'.engines[j]? = p.engines[j]? := by
  obtain ⟨s, t, -, -, rfl⟩ := Platform.step_next h
  exact List.getElem?_set_ne hjk.symm

/-- An engine of a platform after its own step. -/
theorem Platform.engine_set_self {p : Platform} {k : Nat} {s : State} (hs : p.engines[k]? = some s) (t : State) :
    (p.engines.set k t)[k]? = some t :=
  List.getElem?_set_self (List.getElem?_eq_some_iff.mp hs).1

/-- What an engine does depends on its own state alone: two platforms that agree on it step it to the same state (R69). -/
theorem Platform.step_next_of_engine_eq {p q p' : Platform} {k : Nat} (h : p.step k = .next p')
    (hq : q.engines[k]? = p.engines[k]?) : ∃ q', q.step k = .next q' ∧ q'.engines[k]? = p'.engines[k]? := by
  obtain ⟨s, t, hs, ht, rfl⟩ := Platform.step_next h
  have hqs : q.engines[k]? = some s := hq.trans hs
  exact ⟨_, Platform.step_of hqs ht, (Platform.engine_set_self hqs t).trans (Platform.engine_set_self hs t).symm⟩

/-! ### The obligations -/

/-- Settles O58: a platform's step is one engine's step put back in its place, which no other place of the list sees. -/
theorem enginesShareNothing : Obligations.EnginesShareNothing := fun _ _ _ _ _ h =>
  ⟨Platform.valid_of_step_next h, Platform.step_next_nEngines h, Platform.step_next_engine_ne h,
    Platform.step_next_of_engine_eq h⟩

/-- Settles O5: the fetch takes the head of the schedule, and what that decodes to is run without it. -/
theorem stepRunsTheDecodedInstruction : Obligations.StepRunsTheDecodedInstruction := fun _ _ _ =>
  ⟨fun _ hs h => step_cmd_of_decode hs h, fun _ hs h => step_bus_of_decode hs h,
    fun _ _ _ _ _ _ hs hl h => step_platform_of_decode hs hl h, fun hs h => step_engine_turn hs h,
    fun hs h => step_engine hs h⟩

/-- Settles O12: the fields of the state after reset are those of R200; `OUT` and the parameters need an argument, since
`OUT` is a view of the cleared digest and `MSG_CAP` is not known. -/
theorem resetStateIsTheSpecs : Obligations.ResetStateIsTheSpecs :=
  ⟨rfl, rfl, rfl, rfl, rfl, rfl, fun k _ => outByte_zeroDigest k, Memory.read_nil, rfl, rfl, State.reset_params_valid⟩

end Sys2Proof.Machine
end

section
/-! PROOFS. Family 10_state: the invariant is kept by every step, what can fault under it, the values of `STATUS`, and who writes
`MSG_LEN`, the accumulator, the digest and `MSG` (R22 to R24, R32 to R39, R78, R94 to R96, R115, R161, R206). -/

namespace Sys2Proof

/-! ### Instructions by name -/

/-- The `PHASE` at which an instruction is the engine's micro-step (R76); a host instruction has none. -/
def Instr.phaseCode (i : Instr) : BitVec 4 :=
  match encode i with
  | .phase c _ => c
  | .cmd _ => Machine.Phase.idle
  | .bus _ => Machine.Phase.idle

/-- The instruction is a command that is no `NOP`, or the write of `CTRL` that may hold one (R70, R71). -/
def Instr.issuesCommand : Instr → Bool
  | .start _ | .rsvdOp2 _ | .rsvdOp3 _ | .rsvdOp4 _ | .rsvdOp5 _ | .rsvdOp6 _ | .rsvdOp7 _ | .rsvdOp8 _ | .rsvdOp9 _
  | .rsvdOpA _ | .rsvdOpB _ | .rsvdOpC _ | .rsvdOpD _ | .rsvdOpE _ | .rsvdOpF _ | .wrCtrl _ => true
  | _ => false

/-- The commands by name (R71). -/
theorem Instr.issuesCommand_cases {i : Instr} (h : i.issuesCommand = true) :
    (∃ r, i = .start r) ∨ (∃ v, i = .wrCtrl v) ∨
      ∃ r, i ∈ [.rsvdOp2 r, .rsvdOp3 r, .rsvdOp4 r, .rsvdOp5 r, .rsvdOp6 r, .rsvdOp7 r, .rsvdOp8 r, .rsvdOp9 r, .rsvdOpA r,
        .rsvdOpB r, .rsvdOpC r, .rsvdOpD r, .rsvdOpE r, .rsvdOpF r] := by
  cases i with
  | start r => exact .inl ⟨r, rfl⟩
  | wrCtrl v => exact .inr (.inl ⟨v, rfl⟩)
  | rsvdOp2 r | rsvdOp3 r | rsvdOp4 r | rsvdOp5 r | rsvdOp6 r | rsvdOp7 r | rsvdOp8 r | rsvdOp9 r | rsvdOpA r | rsvdOpB r
  | rsvdOpC r | rsvdOpD r | rsvdOpE r | rsvdOpF r => exact .inr (.inr ⟨r, by simp⟩)
  | _ => cases h

end Sys2Proof

namespace Sys2Proof.Machine

/-! ### What the invariant says at each `PHASE` -/

section Sequenced
variable {s : State}

theorem State.sequenced_of_idle (h : s.phase = Phase.idle) : s.sequenced := by
  simp +decide [State.sequenced, h]

theorem State.sequenced_of_init (h : s.phase = Phase.init) : s.sequenced := by
  simp +decide [State.sequenced, h]

theorem State.sequenced_iff_of_pad (h : s.phase = Phase.pad) : s.sequenced ↔ s.marks.h = true := by
  simp +decide [State.sequenced, h]

theorem State.sequenced_iff_of_check (h : s.phase = Phase.check) : s.sequenced ↔ s.planned := by
  simp +decide [State.sequenced, h]

theorem State.sequenced_iff_of_load (h : s.phase = Phase.load) : s.sequenced ↔ s.onBlock := by
  simp +decide [State.sequenced, h]

theorem State.sequenced_iff_of_expand (h : s.phase = Phase.expand) :
    s.sequenced ↔
      s.onBlock ∧ s.marks.regs = true ∧ 16 ≤ s.t.toNat ∧ s.t.toNat ≤ 79 ∧ s.wordsWritten s.t.toNat := by
  simp +decide [State.sequenced, h]

theorem State.sequenced_iff_of_round (h : s.phase = Phase.round) :
    s.sequenced ↔ s.onBlock ∧ s.marks.regs = true ∧ s.t.toNat ≤ 79 ∧ s.wordsWritten 80 := by
  simp +decide [State.sequenced, h]

theorem State.sequenced_iff_of_accum (h : s.phase = Phase.accum) :
    s.sequenced ↔ s.onBlock ∧ s.marks.regs = true := by
  simp +decide [State.sequenced, h]

theorem State.sequenced_iff_of_serial (h : s.phase = Phase.serial) : s.sequenced ↔ s.marks.h = true := by
  simp +decide [State.sequenced, h]

end Sequenced

/-! ### The plan and the blocks that fit it -/

@[simp] theorem planOf_f (len : Nat) : (planOf len).f = fullEnd len := rfl

/-- `F` is a whole number of blocks (R130). -/
theorem fullEnd_mod (len : Nat) : fullEnd len % 64 = 0 := Nat.mul_mod_left ..

theorem fullEnd_le (len : Nat) : fullEnd len ≤ len := Nat.div_mul_le_self ..

/-- The plan's `P` by the length of the tail (R131). -/
theorem planOf_p_cases (len : Nat) :
    ((planOf len).p = 64#8 ∧ len % 64 ≤ 55) ∨ ((planOf len).p = 128#8 ∧ 55 < len % 64) := by
  by_cases h : len % 64 ≤ 55
  · exact .inl ⟨by simp [planOf, paddedSize_eq, h], h⟩
  · exact .inr ⟨by simp [planOf, paddedSize_eq, h], by omega⟩

/-- The first block of an operation fits its plan (R114). -/
theorem firstBlock_fits (len : Nat) : (firstBlock (planOf len).f).fits (planOf len) := by
  have hf := fullEnd_mod len
  unfold firstBlock
  split
  · next h =>
    have h64 : 0 + 64 ≤ fullEnd len := by rw [planOf_f] at h; omega
    exact .inl ⟨rfl, rfl, h64⟩
  · exact .inr ⟨rfl, .inl rfl⟩

/-- `OFF` starts at zero (R114). -/
theorem firstBlock_off (f : Nat) : (firstBlock f).off = 0 := by
  unfold firstBlock; split <;> rfl

/-- A further full block of `MSG` follows (R115). -/
theorem nextBlock_msg_of_lt {pl : Plan} {b : Block} (hs : b.src = .msg) (h : b.off + 64 < pl.f) :
    nextBlock pl b = some (.block ⟨.msg, b.off + 64⟩) := by
  simp [nextBlock, hs, h]

/-- The padded region follows the last full block of `MSG` (R115). -/
theorem nextBlock_msg_of_eq {pl : Plan} {b : Block} (hs : b.src = .msg) (h : b.off + 64 = pl.f) :
    nextBlock pl b = some (.block ⟨.scr, 0⟩) := by
  simp [nextBlock, hs, h]

/-- The second block of a padded region of 128 bytes follows its first (R115; log entry 21). -/
theorem nextBlock_scr_first_long {pl : Plan} (hp : pl.p = 128#8) :
    nextBlock pl ⟨.scr, 0⟩ = some (.block ⟨.scr, 64⟩) := by
  simp [nextBlock, hp]

/-- Nothing follows a padded region of 64 bytes (R115). -/
theorem nextBlock_scr_first_short {pl : Plan} (hp : pl.p = 64#8) : nextBlock pl ⟨.scr, 0⟩ = some .finished := by
  simp [nextBlock, hp]

/-- Nothing follows the second block of the padded region (R115). -/
theorem nextBlock_scr_second (pl : Plan) : nextBlock pl ⟨.scr, 64⟩ = some .finished := by
  simp [nextBlock]

/-- After a block that fits the plan of `PAD` comes the end or another block that fits it: no other selection occurs (R115). -/
theorem nextBlock_of_fits {len : Nat} {b : Block} (h : b.fits (planOf len)) :
    nextBlock (planOf len) b = some .finished ∨
      ∃ b', nextBlock (planOf len) b = some (.block b') ∧ b'.fits (planOf len) := by
  obtain ⟨src, off⟩ := b
  obtain ⟨rfl, hmod, hle⟩ | ⟨rfl, rfl | ⟨rfl, -⟩⟩ := h
  · have hf := fullEnd_mod len
    rw [planOf_f] at hle
    obtain hlt | heq := Nat.lt_or_eq_of_le hle
    · have hmod' : (off + 64) % 64 = 0 := by rw [Nat.add_mod_right]; exact hmod
      have hle' : off + 64 + 64 ≤ fullEnd len := by dsimp only at hlt; omega
      exact .inr ⟨_, nextBlock_msg_of_lt rfl hlt, .inl ⟨rfl, hmod', hle'⟩⟩
    · exact .inr ⟨_, nextBlock_msg_of_eq rfl heq, .inr ⟨rfl, .inl rfl⟩⟩
  · obtain ⟨hp, -⟩ | ⟨hp, -⟩ := planOf_p_cases len
    · exact .inl (nextBlock_scr_first_short hp)
    · exact .inr ⟨_, nextBlock_scr_first_long hp, .inr ⟨rfl, .inr ⟨rfl, hp⟩⟩⟩
  · exact .inl (nextBlock_scr_second _)

/-- `OFF` of a block that fits is below `2^LEN_W`, but for the 64 that R115 gives it at `LEN_W = 6` (log entry 21): the second
block of `SCR` needs a tail of 56 bytes, which no shorter `LEN_W` has room for. -/
theorem Block.fits.off_lt {b : Block} {len k : Nat} (h : b.fits (planOf len)) (hlen : len < 2 ^ k) :
    b.off < 2 ^ k ∨ (k = 6 ∧ b.off = 64) := by
  obtain ⟨-, -, hle⟩ | ⟨-, h0 | ⟨h64, hp⟩⟩ := h
  · rw [planOf_f] at hle
    have := fullEnd_le len
    exact .inl (by omega)
  · exact .inl (h0 ▸ Nat.two_pow_pos k)
  · obtain ⟨hp', -⟩ | ⟨-, htail⟩ := planOf_p_cases len
    · rw [hp'] at hp; cases hp
    · have hk : 6 ≤ k := by
        by_contra hk
        have : 2 ^ k ≤ 2 ^ 5 := Nat.pow_le_pow_right (by decide) (by omega)
        omega
      obtain rfl | hk := Nat.eq_or_lt_of_le hk
      · exact .inr ⟨rfl, h64⟩
      · have : 2 ^ 7 ≤ 2 ^ k := Nat.pow_le_pow_right (by decide) hk
        exact .inl (by omega)

/-! ### The invariant and the host -/

/-- A status with no bit set but `BUSY` is one of R22's. -/
theorem State.statusLegal_of_clear {s : State} (hd : s.done = false) (hv : s.valid = false) (he : s.err = 0#4) :
    s.statusLegal := by
  simp [State.statusLegal, hd, hv, he]

/-- An idle engine whose status shows an error is one of R22's. -/
theorem State.statusLegal_raise (s : State) (e : HwError) : (s.raise e).statusLegal := by
  cases e <;> simp [State.statusLegal, errorCode]

/-- The invariant looks neither at the schedule nor at the data returned to the host. -/
theorem State.Inv.setInbox {s : State} (hs : s.Inv) (es : List Event) : (s.setInbox es).Inv :=
  ⟨hs.params, hs.memWf, hs.memCap, hs.msgLen, hs.len, hs.fullEnd, hs.offset, hs.status, hs.digest, hs.busyLen, hs.sequenced⟩

theorem State.Inv.giveBack {s : State} (hs : s.Inv) (r : Returned) : (s.giveBack r).Inv :=
  ⟨hs.params, hs.memWf, hs.memCap, hs.msgLen, hs.len, hs.fullEnd, hs.offset, hs.status, hs.digest, hs.busyLen, hs.sequenced⟩

/-- While the engine is idle `MSG_LEN` may be any length of `LEN_W` bits. -/
theorem State.Inv.setMsgLen {s : State} (hs : s.Inv) (hi : s.phase = Phase.idle) {n : Nat} (hn : n < 2 ^ s.params.lenW) :
    (s.setMsgLen n).Inv :=
  ⟨hs.params, hs.memWf, hs.memCap, hn, hs.len, hs.fullEnd, hs.offset, hs.status, hs.digest, fun hb => absurd hi hb,
    hs.sequenced⟩

/-- A byte stored inside the window keeps `MSG` canonical and inside `MSG_CAP`. -/
theorem State.Inv.setMsgByte {s : State} (hs : s.Inv) {a : Nat} (ha : a < s.params.msgCap) (b : Byte) :
    (s.setMsgByte a b).Inv := by
  refine ⟨hs.params, Memory.write_wf hs.memWf a b, fun c hc => ?_, hs.msgLen, hs.len, hs.fullEnd, hs.offset, hs.status,
    hs.digest, hs.busyLen, hs.sequenced⟩
  obtain rfl | hc := Memory.mem_write hc
  · exact ha
  · exact hs.memCap c hc

/-- An error leaves an idle engine with a zero digest. -/
theorem State.Inv.raise {s : State} (hs : s.Inv) (e : HwError) : (s.raise e).Inv :=
  ⟨hs.params, hs.memWf, hs.memCap, hs.msgLen, hs.len, hs.fullEnd, hs.offset, State.statusLegal_raise s e, fun _ => rfl,
    fun hb => absurd rfl hb, State.sequenced_of_idle rfl⟩

/-- An accepted `START` latches a length that is at most `MSG_CAP`. -/
theorem State.Inv.accept {s : State} (hs : s.Inv) (hl : s.msgLen ≤ s.params.msgCap) : s.accept.Inv :=
  ⟨hs.params, hs.memWf, hs.memCap, hs.msgLen, hs.msgLen, hs.fullEnd, hs.offset, State.statusLegal_of_clear rfl rfl rfl,
    fun _ => rfl, fun _ => ⟨rfl, hl⟩, State.sequenced_of_init rfl⟩

/-- The reset of an engine with legal parameters meets the invariant. -/
theorem State.resetEngine_inv {s : State} (hp : s.params.Valid) : s.resetEngine.Inv where
  params := hp
  memWf := Memory.wf_nil
  memCap := nofun
  msgLen := Nat.two_pow_pos _
  len := Nat.two_pow_pos _
  fullEnd := Nat.two_pow_pos _
  offset := .inl (Nat.two_pow_pos _)
  status := State.statusLegal_of_clear rfl rfl rfl
  digest := fun _ => rfl
  busyLen := fun hb => absurd rfl hb
  sequenced := State.sequenced_of_idle rfl

/-- Every host instruction keeps the invariant. -/
theorem HostEffect.inv {s t : State} (h : HostEffect s t) (hs : s.Inv) : t.Inv := by
  cases h with
  | same => exact hs
  | read r => exact hs.giveBack r
  | lenLo v hi => exact hs.setMsgLen hi (withLenLo_lt _ _ v hs.msgLen)
  | lenHi v hi => exact hs.setMsgLen hi (withLenHi_lt _ _ v hs.msgLen)
  | byte a b _ ha => exact hs.setMsgByte ha b
  | lengthRange => exact hs.raise _
  | illegal => exact hs.raise _
  | accepted _ hl => exact hs.accept hl

/-! ### The invariant and the engine -/

/-- A micro-step is selected at its own `PHASE` only (R77). -/
theorem decodePhase_phase {c : BitVec 4} {t : BitVec 7} {i : Instr} (h : decodePhase c t = .ok i) :
    c = i.phaseCode := by
  obtain ⟨rfl, rfl⟩ | ⟨rfl, rfl⟩ | ⟨rfl, rfl⟩ | ⟨rfl, rfl⟩ | ⟨rfl, -, -, rfl⟩ | ⟨rfl, h⟩ | ⟨rfl, rfl⟩ | ⟨rfl, rfl⟩ :=
    decodePhase_ok h <;> try rfl
  obtain ⟨-, rfl⟩ | ⟨-, -, rfl⟩ | ⟨-, -, rfl⟩ | ⟨-, -, rfl⟩ := decodeRound_ok h <;> rfl

/-- The part of the state that no micro-step writes but the one that ends the operation. -/
def State.lasting (s : State) : Params × Memory × Nat × Nat × Bool × Bool × BitVec 4 × Vector Word 5 :=
  (s.params, s.mem, s.msgLen, s.len, s.done, s.valid, s.err, s.digest)

theorem State.lasting_eq_iff {s t : State} : t.lasting = s.lasting ↔
    t.params = s.params ∧ t.mem = s.mem ∧ t.msgLen = s.msgLen ∧ t.len = s.len ∧ t.done = s.done ∧ t.valid = s.valid ∧
      t.err = s.err ∧ t.digest = s.digest := by
  simp [State.lasting]

section Engine
variable {s : State}

/-- What the invariant asks of a micro-step that ends no operation: its `F`, its `OFF`, and what the next one reads. -/
theorem State.Inv.of_lasting_eq {t : State} (hs : s.Inv) (hb : s.phase ≠ Phase.idle) (hv : t.lasting = s.lasting)
    (hf : t.plan.f < 2 ^ s.params.lenW)
    (ho : t.block.off < 2 ^ s.params.lenW ∨ (s.params.lenW = 6 ∧ t.block.off = 64)) (hq : t.sequenced) : t.Inv := by
  obtain ⟨hparams, hmem, hmsgLen, hlen, hdone, hvalid, herr, hdigest⟩ := State.lasting_eq_iff.mp hv
  obtain ⟨hd, hv, he⟩ := hs.status.1 hb
  exact {
    params := hparams ▸ hs.params
    memWf := hmem ▸ hs.memWf
    memCap := by rw [hmem, hparams]; exact hs.memCap
    msgLen := by rw [hmsgLen, hparams]; exact hs.msgLen
    len := by rw [hlen, hparams]; exact hs.len
    fullEnd := hparams ▸ hf
    offset := hparams ▸ ho
    status := State.statusLegal_of_clear (hdone.trans hd) (hvalid.trans hv) (herr.trans he)
    digest := fun _ => hdigest.trans (hs.digest hv)
    busyLen := fun _ => by rw [hlen, hmsgLen, hparams]; exact hs.busyLen hb
    sequenced := hq }

theorem State.Inv.startAccumulator (hs : s.Inv) (hp : s.phase = Phase.init) : s.startAccumulator.Inv :=
  hs.of_lasting_eq (by rw [hp]; decide) rfl hs.fullEnd hs.offset ((State.sequenced_iff_of_pad rfl).mpr rfl)

theorem State.Inv.writePadding (hs : s.Inv) (hp : s.phase = Phase.pad) (tail : List Byte) : (s.writePadding tail).Inv := by
  have hh : s.marks.h = true := (State.sequenced_iff_of_pad hp).mp hs.sequenced
  exact hs.of_lasting_eq (by rw [hp]; decide) rfl ((fullEnd_le s.len).trans_lt hs.len) hs.offset
    ((State.sequenced_iff_of_check rfl).mpr ⟨hh, rfl, rfl, rfl⟩)

theorem State.Inv.selectFirst (hs : s.Inv) (hp : s.phase = Phase.check) : s.selectFirst.Inv := by
  have hpl : s.planned := (State.sequenced_iff_of_check hp).mp hs.sequenced
  obtain ⟨-, -, -, hplan⟩ := id hpl
  refine hs.of_lasting_eq (by rw [hp]; decide) rfl hs.fullEnd (.inl ?_)
    ((State.sequenced_iff_of_load rfl).mpr ⟨hpl, rfl, ?_⟩)
  · rw [State.selectFirst_block, firstBlock_off]; exact Nat.two_pow_pos _
  · rw [State.selectFirst_block, State.selectFirst_plan, hplan]; exact firstBlock_fits s.len

theorem State.Inv.seedBlock (hs : s.Inv) (hp : s.phase = Phase.load) (bytes : List Byte) : (s.seedBlock bytes).Inv := by
  have hbl : s.onBlock := (State.sequenced_iff_of_load hp).mp hs.sequenced
  refine hs.of_lasting_eq (by rw [hp]; decide) rfl hs.fullEnd hs.offset
    ((State.sequenced_iff_of_expand rfl).mpr ⟨hbl, rfl, by simp, by simp, fun j hj => ?_⟩)
  simpa using .inl hj

/-- Writing word `k` of a schedule whose first `k` words are written leaves its first `k + 1` written. -/
theorem State.wordsWritten_expandAt {k : Nat} (hk : k < 80) (h : s.wordsWritten k) :
    (s.expandAt k hk).wordsWritten (k + 1) := by
  intro j hj
  obtain hj | hj := Nat.lt_succ_iff_lt_or_eq.mp hj
  · simpa [Vector.getElem_set] using .inr (h j hj)
  · simp [hj]

/-- `t` counts on without wrapping. -/
theorem toNat_succ_of_le {t : BitVec 7} (h : t.toNat ≤ 79) : (t + 1#7).toNat = t.toNat + 1 := by
  bv_omega

theorem State.Inv.expandAt (hs : s.Inv) (hp : s.phase = Phase.expand) (hk : s.t.toNat < 80) :
    (s.expandAt s.t.toNat hk).Inv := by
  obtain ⟨hbl, hr, hlo, hle, hw⟩ := (State.sequenced_iff_of_expand hp).mp hs.sequenced
  have hw' := State.wordsWritten_expandAt hk hw
  refine hs.of_lasting_eq (by rw [hp]; decide) rfl hs.fullEnd hs.offset ?_
  by_cases h79 : s.t.toNat = 79
  · refine (State.sequenced_iff_of_round (by simp [h79])).mpr ⟨hbl, hr, by simp [h79], ?_⟩
    simpa only [h79] using hw'
  · have ht : (s.expandAt s.t.toNat hk).t.toNat = s.t.toNat + 1 := by
      rw [State.expandAt_t, if_neg h79, toNat_succ_of_le hle]
    refine (State.sequenced_iff_of_expand (by simp [h79, hp])).mpr ⟨hbl, hr, by omega, by omega, ?_⟩
    rw [ht]; exact hw'

theorem State.Inv.applyRound (hs : s.Inv) (hp : s.phase = Phase.round) (f k : Word) : (s.applyRound f k).Inv := by
  obtain ⟨hbl, hr, hle, hw⟩ := (State.sequenced_iff_of_round hp).mp hs.sequenced
  refine hs.of_lasting_eq (by rw [hp]; decide) rfl hs.fullEnd hs.offset ?_
  by_cases h79 : s.t.toNat = 79
  · exact (State.sequenced_iff_of_accum (by simp [h79])).mpr ⟨hbl, hr⟩
  · have ht : (s.applyRound f k).t.toNat = s.t.toNat + 1 := toNat_succ_of_le hle
    exact (State.sequenced_iff_of_round (by simp [h79, hp])).mpr ⟨hbl, hr, by omega, hw⟩

theorem State.Inv.accumulate (hs : s.Inv) (hp : s.phase = Phase.accum) {next : After}
    (hn : nextBlock s.plan s.block = some next) : (s.accumulate next).Inv := by
  obtain ⟨⟨hpl, hm, hfit⟩, -⟩ := (State.sequenced_iff_of_accum hp).mp hs.sequenced
  obtain ⟨hh, -, -, hplan⟩ := id hpl
  have hb : s.phase ≠ Phase.idle := by rw [hp]; decide
  rw [hplan] at hn hfit
  obtain hfin | ⟨b, hblk, hfit'⟩ := nextBlock_of_fits hfit
  · obtain rfl := Option.some.inj (hn.symm.trans hfin)
    exact hs.of_lasting_eq hb rfl hs.fullEnd hs.offset ((State.sequenced_iff_of_serial rfl).mpr hh)
  · obtain rfl := Option.some.inj (hn.symm.trans hblk)
    refine hs.of_lasting_eq hb rfl hs.fullEnd (hfit'.off_lt hs.len) ((State.sequenced_iff_of_load rfl).mpr ⟨hpl, hm, ?_⟩)
    rw [State.accumulate_block_plan, hplan]; exact hfit'

/-- The end of an operation leaves an idle engine with a valid digest. -/
theorem State.Inv.publish (hs : s.Inv) : s.publish.Inv :=
  ⟨hs.params, hs.memWf, hs.memCap, hs.msgLen, hs.len, hs.fullEnd, hs.offset, by simp [State.statusLegal], nofun,
    fun hb => absurd rfl hb, State.sequenced_of_idle rfl⟩

/-- The micro-step that `PHASE` and `t` select keeps the invariant. -/
theorem MicroEffect.inv {i : Instr} {t : State} (h : MicroEffect s i t) (hd : decodePhase s.phase s.t = .ok i)
    (hs : s.Inv) : t.Inv := by
  have hp := decodePhase_phase hd
  cases h with
  | init => exact hs.startAccumulator hp
  | pad tail => exact hs.writePadding hp tail
  | checked => exact hs.selectFirst hp
  | inconsistent => exact hs.raise _
  | load bytes => exact hs.seedBlock hp bytes
  | expand hk => exact hs.expandAt hp hk
  | round0019 f k => exact hs.applyRound hp f k
  | round2039 f k => exact hs.applyRound hp f k
  | round4059 f k => exact hs.applyRound hp f k
  | round6079 f k => exact hs.applyRound hp f k
  | accum next _ _ hn => exact hs.accumulate hp hn
  | serial => exact hs.publish

end Engine

/-! ### What a host instruction does, by the instruction -/

/-- The answer of a host instruction, with the instructions that can give it. Where `HostEffect` says what the next state can be,
this also says which instruction can leave it. -/
inductive HostAnswer (s : State) : Instr → Result → Prop where
  | same (i : Instr) : HostAnswer s i (.next s)
  | read (i : Instr) (r : Returned) : HostAnswer s i (.next (s.giveBack r))
  | refuse (i : Instr) (r : Refusal) : HostAnswer s i (.refused r)
  | unwritten (a : Nat) : HostAnswer s (.rdMsg a) (.fault .unwrittenMsgRead)
  | length (i : Instr) (n : Nat) : HostAnswer s i (whenIdle s (s.setMsgLen n))
  | byte (a : Nat) (b : Byte) : HostAnswer s (.wrMsg a b) (whenIdle s (s.setMsgByte a b))
  | start (i : Instr) : i.issuesCommand = true → HostAnswer s i (startCommand s)
  | reserved (i : Instr) : i.issuesCommand = true → HostAnswer s i (reservedCommand s)

section HostAnswer
variable {s : State}

theorem execWrCtrl_answer (v : Word) : HostAnswer s (.wrCtrl v) (execWrCtrl v s) := by
  unfold execWrCtrl performCommand
  split
  · exact .same _
  · split
    · exact .start _ rfl
    · exact .reserved _ rfl

theorem execWrMsg_answer (a : Nat) (b : Byte) : HostAnswer s (.wrMsg a b) (execWrMsg a b s) := by
  unfold execWrMsg
  split
  · exact .byte a b
  · exact .refuse _ _

theorem execRdMsg_answer (a : Nat) : HostAnswer s (.rdMsg a) (execRdMsg a s) := by
  unfold execRdMsg
  split
  · split
    · exact .read _ _
    · exact .unwritten a
  · exact .refuse _ _

theorem execRdOut_answer (k : Nat) : HostAnswer s (.rdOut k) (execRdOut k s) := by
  unfold execRdOut
  split
  · exact .read _ _
  · exact .refuse _ _

/-- Every host instruction answers in one of these ways. -/
theorem exec_hostAnswer {i : Instr} (hi : i.isMicroStep = false) : HostAnswer s i (exec i s) := by
  cases i with
  | nop => exact .same _
  | start => exact .start _ rfl
  | rsvdOp2 | rsvdOp3 | rsvdOp4 | rsvdOp5 | rsvdOp6 | rsvdOp7 | rsvdOp8 | rsvdOp9 | rsvdOpA | rsvdOpB | rsvdOpC | rsvdOpD
  | rsvdOpE | rsvdOpF => exact .reserved _ rfl
  | wrCtrl v => exact execWrCtrl_answer v
  | rdCtrl | rdStatus | rdMsgLenLo | rdMsgLenHi | rdDigest0 | rdDigest1 | rdDigest2 | rdDigest3 | rdDigest4 | rdRsvd =>
    exact .read _ _
  | wrStatus | wrDigest0 | wrDigest1 | wrDigest2 | wrDigest3 | wrDigest4 | wrRsvd => exact .same _
  | wrMsgLenLo | wrMsgLenHi => exact .length _ _
  | wrMsg a b => exact execWrMsg_answer a b
  | rdMsg a => exact execRdMsg_answer a
  | rdOut k => exact execRdOut_answer k
  | init | pad | check | load | expand | round0019 | round2039 | round4059 | round6079 | accum | serial => cases hi

end HostAnswer

/-! ### Faults -/

theorem whenIdle_ne_fault (s t : State) (f : Fault) : whenIdle s t ≠ .fault f := by
  unfold whenIdle; split <;> nofun

theorem startCommand_ne_fault (s : State) (f : Fault) : startCommand s ≠ .fault f := by
  unfold startCommand; repeat' split
  all_goals nofun

theorem reservedCommand_ne_fault (s : State) (f : Fault) : reservedCommand s ≠ .fault f := by
  unfold reservedCommand; split <;> nofun

/-- A host instruction faults only on an unwritten byte of `MSG` (R100, R188). -/
theorem HostAnswer.fault {s : State} {i : Instr} {r : Result} {f : Fault} (h : HostAnswer s i r) (hr : r = .fault f) :
    f = .unwrittenMsgRead := by
  cases h with
  | same | read | refuse => cases hr
  | unwritten => cases hr; rfl
  | length | byte => exact absurd hr (whenIdle_ne_fault _ _ f)
  | start => exact absurd hr (startCommand_ne_fault s f)
  | reserved => exact absurd hr (reservedCommand_ne_fault s f)

section MicroStep
variable {s : State}

theorem State.wordWritten_of_wordsWritten {n k : Nat} (h : s.wordsWritten n) (hk : k < n) (h80 : k < 80) :
    s.wordWritten k = true := by
  simpa [State.wordWritten, h80] using h ⟨k, h80⟩ hk

/-- `PAD` completes, or a byte of the tail is unwritten (R133). -/
theorem execPad_total (s : State) : (∃ t, execPad s = .next t) ∨ execPad s = .fault .unwrittenMsgRead := by
  unfold execPad
  split
  · exact .inl ⟨_, rfl⟩
  · exact .inr rfl

/-- `CHECK` completes on a written plan, consistent or not (R137). -/
theorem execCheck_total (h : s.marks.plan = true) : ∃ t, execCheck s = .next t := by
  unfold execCheck
  rw [h, whenWritten_true]
  split <;> exact ⟨_, rfl⟩

/-- A block that fits the plan is read whole, or holds an unwritten byte of `MSG` (R158). -/
theorem readBlock_total {pl : Plan} (hm : s.marks.scr = true) (hf : s.block.fits pl) :
    (∃ bytes, readBlock s = .ok bytes) ∨ readBlock s = .error .unwrittenMsgRead := by
  obtain ⟨hs, -⟩ | ⟨hs, hoff⟩ := hf
  · cases hb : s.mem.readBytes s.block.off 64 with
    | some bytes => exact .inl ⟨bytes, by simp [readBlock, hs, hb]⟩
    | none => exact .inr (by simp [readBlock, hs, hb])
  · have hin : s.block.off + 64 ≤ 128 := by omega
    exact .inl ⟨_, by simp [readBlock, hs, hin, hm]; rfl⟩

/-- `LOAD` of a selected block completes, or the block holds an unwritten byte of `MSG` (R158). -/
theorem execLoad_total (h : s.onBlock) : (∃ t, execLoad s = .next t) ∨ execLoad s = .fault .unwrittenMsgRead := by
  obtain ⟨⟨hh, -, hscr, -⟩, hbl, hfit⟩ := h
  obtain ⟨bytes, hb⟩ | hb := readBlock_total hscr hfit
  · exact .inl ⟨s.seedBlock bytes, by simp [execLoad, hbl, hh, hb]⟩
  · exact .inr (by simp [execLoad, hbl, hh, hb])

/-- `EXPAND` completes when every word below `t` is written (R159). -/
theorem execExpand_eq (hlo : 16 ≤ s.t.toNat) (hhi : s.t.toNat < 80) (hw : s.wordsWritten s.t.toNat) :
    execExpand s = .next (s.expandAt s.t.toNat hhi) := by
  have hword (d : Nat) (hd : 3 ≤ d) : s.wordWritten (s.t.toNat - d) = true :=
    State.wordWritten_of_wordsWritten hw (by omega) (by omega)
  simp [execExpand, hlo, hhi, hword]

/-- A round row completes inside its range on written operands (R160). -/
theorem roundRow_eq {lo hi : Nat} {f : Word → Word → Word → Word} {k : Word} (hlo : lo ≤ s.t.toNat) (hhi : s.t.toNat ≤ hi)
    (hr : s.marks.regs = true) (hw : s.wordWritten s.t.toNat = true) :
    roundRow lo hi f k s = .next (s.applyRound (f s.regs.b s.regs.c s.regs.d) k) := by
  simp [roundRow, hlo, hhi, hr, hw]

/-- The round row that `t` selects completes on written operands (R157, R160). -/
theorem exec_round_total {i : Instr} (hd : decodeRound s.t = .ok i) (hr : s.marks.regs = true) (hle : s.t.toNat ≤ 79)
    (hw : s.wordsWritten 80) : ∃ t, exec i s = .next t := by
  have hword : s.wordWritten s.t.toNat = true := State.wordWritten_of_wordsWritten hw (by omega) (by omega)
  obtain ⟨h1, rfl⟩ | ⟨h1, h2, rfl⟩ | ⟨h1, h2, rfl⟩ | ⟨h1, h2, rfl⟩ := decodeRound_ok hd
  · exact ⟨_, roundRow_eq (Nat.zero_le _) h1 hr hword⟩
  · exact ⟨_, roundRow_eq h1 h2 hr hword⟩
  · exact ⟨_, roundRow_eq h1 h2 hr hword⟩
  · exact ⟨_, roundRow_eq h1 h2 hr hword⟩

/-- `ACCUM` goes where R115 sends it, once what it reads is written (R161). -/
theorem execAccum_eq {next : After} (hh : s.marks.h = true) (hr : s.marks.regs = true) (hb : s.marks.block = true)
    (hp : s.marks.plan = true) (hn : nextBlock s.plan s.block = some next) : execAccum s = .next (s.accumulate next) := by
  simp [execAccum, hh, hr, hb, hp, hn]

/-- After a block that fits its plan `ACCUM` always completes (R115, R161). -/
theorem execAccum_total (h : s.onBlock) (hr : s.marks.regs = true) : ∃ t, execAccum s = .next t := by
  obtain ⟨⟨hh, hp, -, hplan⟩, hb, hfit⟩ := h
  obtain ⟨next, hn⟩ : ∃ next, nextBlock s.plan s.block = some next := by
    rw [hplan] at hfit ⊢
    obtain hn | ⟨b, hn, -⟩ := nextBlock_of_fits hfit
    · exact ⟨_, hn⟩
    · exact ⟨_, hn⟩
  exact ⟨_, execAccum_eq hh hr hb hp hn⟩

theorem execSerial_eq (h : s.marks.h = true) : execSerial s = .next s.publish := by
  simp [execSerial, h]

/-- Under the invariant the selected micro-step completes, or reads an unwritten byte of `MSG`. -/
theorem State.Inv.exec_micro_total {i : Instr} (hs : s.Inv) (hd : decodePhase s.phase s.t = .ok i) :
    (∃ t, exec i s = .next t) ∨ exec i s = .fault .unwrittenMsgRead := by
  obtain ⟨hp, rfl⟩ | ⟨hp, rfl⟩ | ⟨hp, rfl⟩ | ⟨hp, rfl⟩ | ⟨hp, hlo, hhi, rfl⟩ | ⟨hp, hround⟩ | ⟨hp, rfl⟩ | ⟨hp, rfl⟩ :=
    decodePhase_ok hd
  · exact .inl ⟨_, rfl⟩
  · exact execPad_total s
  · obtain ⟨-, hplan, -, -⟩ := (State.sequenced_iff_of_check hp).mp hs.sequenced
    exact .inl (execCheck_total hplan)
  · exact execLoad_total ((State.sequenced_iff_of_load hp).mp hs.sequenced)
  · obtain ⟨-, -, -, -, hw⟩ := (State.sequenced_iff_of_expand hp).mp hs.sequenced
    exact .inl ⟨_, execExpand_eq hlo (by omega) hw⟩
  · obtain ⟨-, hr, hle, hw⟩ := (State.sequenced_iff_of_round hp).mp hs.sequenced
    exact .inl (exec_round_total hround hr hle hw)
  · obtain ⟨hbl, hr⟩ := (State.sequenced_iff_of_accum hp).mp hs.sequenced
    exact .inl (execAccum_total hbl hr)
  · exact .inl ⟨_, execSerial_eq ((State.sequenced_iff_of_serial hp).mp hs.sequenced)⟩

/-- An index of the schedule selects a round row (R157). -/
theorem decodeRound_ne_badPhase {t : BitVec 7} (h : t.toNat ≤ 79) : decodeRound t ≠ .error .badPhase := by
  unfold decodeRound
  repeat' split
  all_goals nofun

/-- Under the invariant `PHASE` and `t` are never a bad phase (R78). -/
theorem State.Inv.decodePhase_ne_badPhase (hs : s.Inv) : decodePhase s.phase s.t ≠ .error .badPhase := by
  obtain ⟨hle, -, -, -, hexpand, hround, -, -⟩ := hs.sequenced
  have hphase {n : Nat} (h : s.phase.toNat = n) : s.phase = BitVec.ofNat 4 n := by rw [← h]; simp
  unfold decodePhase
  generalize hn : s.phase.toNat = n at hle ⊢
  match n, hn, hle with
  | 5, hn, _ =>
    obtain ⟨-, -, hlo, hhi, -⟩ := hexpand (hphase hn)
    exact fun h => by rw [if_pos ⟨hlo, hhi⟩] at h; cases h
  | 6, hn, _ =>
    obtain ⟨-, -, hhi, -⟩ := hround (hphase hn)
    exact decodeRound_ne_badPhase hhi
  | 0, _, _ | 1, _, _ | 2, _, _ | 3, _, _ | 4, _, _ | 7, _, _ | 8, _, _ => nofun

end MicroStep

/-! ### The status word -/

/-- While busy with a clear status the word is `BUSY` alone (R21, R97). -/
theorem State.statusWord_of_busy {s : State} (hb : s.phase ≠ Phase.idle) (hd : s.done = false) (hv : s.valid = false)
    (he : s.err = 0#4) : s.statusWord = 0x00000001#32 := by
  simp [State.statusWord, (State.busy_iff s).mpr hb, hd, hv, he, bitWord]

/-- While idle the word is `ERR`, `VALID` and `DONE` (R21, R97). -/
theorem State.statusWord_of_idle {s : State} (hi : s.phase = Phase.idle) :
    s.statusWord = (s.err.setWidth 32 <<< 4) ||| (bitWord s.valid <<< 2) ||| (bitWord s.done <<< 1) := by
  simp [State.statusWord, (State.not_busy_iff s).mpr hi, bitWord]

/-- The error codes below 4 (R180). -/
theorem err_cases {e : BitVec 4} (h0 : e ≠ 0#4) (h4 : e.toNat < 4) : e = 1#4 ∨ e = 2#4 ∨ e = 3#4 := by
  revert e; decide

/-- A legal status reads as one of six words (R22). -/
theorem State.statusWord_mem {s : State} (h : s.statusLegal) :
    s.statusWord ∈ [0x00000000#32, 0x00000001#32, 0x00000006#32, 0x00000012#32, 0x00000022#32, 0x00000032#32] := by
  obtain ⟨hbusy, hvalid, herr, hdone, hlt⟩ := h
  by_cases hi : s.phase = Phase.idle
  · rw [State.statusWord_of_idle hi]
    by_cases he : s.err = 0#4
    · cases hd : s.done with
      | false =>
        have hv : s.valid = false := by
          by_contra hv
          exact Bool.noConfusion (hd.symm.trans (hvalid (by simpa using hv)).1)
        rw [he, hv]; decide
      | true =>
        have hv : s.valid = true := (hdone hd).resolve_right (absurd he)
        rw [he, hv]; decide
    · obtain ⟨hd, hv⟩ := herr he
      rw [hd, hv]
      obtain he | he | he := err_cases he hlt <;> rw [he] <;> decide
  · obtain ⟨hd, hv, he⟩ := hbusy hi
    rw [State.statusWord_of_busy hi hd hv he]; decide

/-! ### Who writes the digest -/

/-- From `s` to `t` the digest is cleared, by a `START` that begins an operation or by an error that ends one (R24, R91,
R184). -/
def State.digestCleared (s t : State) : Prop :=
  t.digest = zeroDigest ∧
    ((s.phase = Phase.idle ∧ t.phase = Phase.init ∧ t.len = s.msgLen) ∨
      (t.phase = Phase.idle ∧ t.done = true ∧ t.err ≠ 0#4))

theorem errorCode_ne_zero (e : HwError) : errorCode e ≠ 0#4 := by
  cases e <;> decide

theorem State.digestCleared_raise (s : State) (e : HwError) : s.digestCleared (s.raise e) :=
  ⟨rfl, .inr ⟨rfl, rfl, errorCode_ne_zero e⟩⟩

theorem State.digestCleared_accept {s : State} (hi : s.phase = Phase.idle) : s.digestCleared s.accept :=
  ⟨rfl, .inl ⟨hi, rfl, rfl⟩⟩

/-- A host instruction leaves the digest alone, or it issues a command that clears it (R24). -/
theorem HostAnswer.digest {s t : State} {i : Instr} {r : Result} (h : HostAnswer s i r) (hr : r = .next t) :
    t.digest = s.digest ∨ (i.issuesCommand = true ∧ s.digestCleared t) := by
  cases h with
  | same | read => cases hr; exact .inl rfl
  | refuse | unwritten => cases hr
  | length | byte => obtain ⟨-, rfl⟩ | ⟨-, rfl⟩ := whenIdle_cases hr <;> exact .inl rfl
  | start _ hc =>
    obtain ⟨-, rfl⟩ | ⟨-, -, rfl⟩ | ⟨hi, -, rfl⟩ := startCommand_cases hr
    · exact .inl rfl
    · exact .inr ⟨hc, s.digestCleared_raise _⟩
    · exact .inr ⟨hc, State.digestCleared_accept hi⟩
  | reserved _ hc =>
    obtain ⟨-, rfl⟩ | ⟨-, rfl⟩ := reservedCommand_cases hr
    · exact .inl rfl
    · exact .inr ⟨hc, s.digestCleared_raise _⟩

theorem State.accumulate_digest (s : State) (next : After) : (s.accumulate next).digest = s.digest := by
  cases next <;> rfl

theorem State.accumulate_mem (s : State) (next : After) : (s.accumulate next).mem = s.mem := by
  cases next <;> rfl

/-- A micro-step leaves the digest alone, but for `CHECK` with its error and for `SERIAL` (R24, R116, R181). -/
theorem MicroEffect.digest {s t : State} {i : Instr} (h : MicroEffect s i t) :
    t.digest = s.digest ∨ (i = .check ∧ s.digestCleared t) ∨ (i = .serial ∧ t.digest = s.h) := by
  cases h with
  | inconsistent => exact .inr (.inl ⟨rfl, s.digestCleared_raise _⟩)
  | serial => exact .inr (.inr ⟨rfl, rfl⟩)
  | accum next => exact .inl (s.accumulate_digest next)
  | init | pad | checked | load | expand | round0019 | round2039 | round4059 | round6079 => exact .inl rfl

/-! ### Who writes `MSG` -/

/-- A host instruction leaves every byte of `MSG` alone, or it is `WR_MSG` (R99). -/
theorem HostAnswer.mem {s t : State} {i : Instr} {r : Result} (h : HostAnswer s i r) (hr : r = .next t) :
    t.mem = s.mem ∨ ∃ a b, i = .wrMsg a b ∧ t.mem = s.mem.write a b := by
  cases h with
  | same | read => cases hr; exact .inl rfl
  | refuse | unwritten => cases hr
  | length => obtain ⟨-, rfl⟩ | ⟨-, rfl⟩ := whenIdle_cases hr <;> exact .inl rfl
  | byte a b =>
    obtain ⟨-, rfl⟩ | ⟨-, rfl⟩ := whenIdle_cases hr
    · exact .inl rfl
    · exact .inr ⟨a, b, rfl, rfl⟩
  | start => obtain ⟨-, rfl⟩ | ⟨-, -, rfl⟩ | ⟨-, -, rfl⟩ := startCommand_cases hr <;> exact .inl rfl
  | reserved => obtain ⟨-, rfl⟩ | ⟨-, rfl⟩ := reservedCommand_cases hr <;> exact .inl rfl

/-- The engine only reads `MSG` (R35). -/
theorem MicroEffect.mem {s t : State} {i : Instr} (h : MicroEffect s i t) : t.mem = s.mem := by
  cases h with
  | accum next => exact s.accumulate_mem next
  | init | pad | checked | inconsistent | load | expand | round0019 | round2039 | round4059 | round6079 | serial => rfl

/-- Every instruction leaves `MSG` as it was, or is `WR_MSG` and stores its byte (R35, R99). -/
theorem exec_mem {i : Instr} {s t : State} (h : exec i s = .next t) :
    t.mem = s.mem ∨ ∃ a b, i = .wrMsg a b ∧ t.mem = s.mem.write a b := by
  cases hi : i.isMicroStep with
  | false => exact (exec_hostAnswer hi).mem h
  | true => exact .inl (exec_micro hi h).mem

/-! ### `MSG_LEN` in two parts -/

/-- The low part is not truncated by the 32-bit register (R96). -/
theorem lenLo_toNat (p : Params) (n : Nat) : (lenLo p n).toNat = n % 2 ^ min 32 p.lenW := by
  have h32 : 2 ^ min 32 p.lenW ≤ 2 ^ 32 := Nat.pow_le_pow_right (by decide) (Nat.min_le_left ..)
  exact Nat.mod_eq_of_lt ((Nat.mod_lt n (Nat.two_pow_pos _)).trans_le h32)

/-- A length written in two parts is the value of the two words, cut to `LEN_W` bits (R94, R95). -/
theorem withLenHi_withLenLo {p : Params} {n : Nat} (hn : n < 2 ^ p.lenW) (lo hi : Word) :
    withLenHi p (withLenLo p n lo) hi = (hi.toNat * 2 ^ 32 + lo.toNat) % 2 ^ p.lenW := by
  have hlo := lo.isLt
  obtain hlt | heq | hgt := Nat.lt_trichotomy p.lenW 32
  · have hdvd : 2 ^ p.lenW ∣ hi.toNat * 2 ^ 32 := (Nat.pow_dvd_pow 2 hlt.le).mul_left _
    rw [withLenHi, if_neg (by omega), withLenLo, if_neg (by omega), Nat.add_mod, Nat.mod_eq_zero_of_dvd hdvd, Nat.zero_add,
      Nat.mod_mod]
  · rw [heq] at hn
    rw [withLenHi, if_neg (by omega), withLenLo, if_pos heq.ge, heq]
    omega
  · obtain ⟨k, hk⟩ := Nat.exists_eq_add_of_le hgt.le
    rw [withLenHi, if_pos hgt, withLenLo, if_pos hgt.le, hk, Nat.add_sub_cancel_left, Nat.pow_add, Nat.mod_mul]
    have hdiv : (hi.toNat * 2 ^ 32 + lo.toNat) / 2 ^ 32 = hi.toNat := by omega
    rw [hdiv]
    omega

/-- The two parts that reads return give the whole length back (R96). -/
theorem lenHi_lenLo {p : Params} (hp : p.lenW ≤ 64) {n : Nat} (hn : n < 2 ^ p.lenW) :
    (lenHi p n).toNat * 2 ^ 32 + (lenLo p n).toNat = n := by
  rw [lenLo_toNat]
  obtain hgt | hle := Nat.lt_or_ge 32 p.lenW
  · obtain ⟨k, hk⟩ := Nat.exists_eq_add_of_le hgt.le
    have hhi : n / 2 ^ 32 < 2 ^ k := Nat.div_lt_of_lt_mul (by rwa [hk, Nat.pow_add] at hn)
    have hk32 : 2 ^ k ≤ 2 ^ 32 := Nat.pow_le_pow_right (by decide) (by omega)
    rw [lenHi, if_pos hgt, Nat.min_eq_left hgt.le, hk, Nat.add_sub_cancel_left, Nat.mod_eq_of_lt hhi, BitVec.toNat_ofNat,
      Nat.mod_eq_of_lt (hhi.trans_le hk32)]
    omega
  · rw [lenHi, if_neg (by omega), Nat.min_eq_right hle, Nat.mod_eq_of_lt hn]
    exact Nat.zero_add n

/-! ### The obligations -/

/-- Settles O44: taking an entry from the schedule, a reset, a host instruction and the selected micro-step each keep the
invariant, and a step is one of these. -/
theorem everyStepKeepsTheInvariant : Obligations.EveryStepKeepsTheInvariant := by
  intro s t hs h
  obtain ⟨rest, u, rfl, hc⟩ := step_cases h
  have hu := hs.setInbox rest
  obtain rfl | rfl | he | ⟨i, hd, he⟩ := hc
  · exact hu
  · exact State.resetEngine_inv hu.params
  · exact he.inv hu
  · exact he.inv hd hu

/-- Settles O23: an idle engine stores both parts, which together are the value cut to `LEN_W` bits, and the two reads give
that value's parts. -/
theorem msgLenReadsBack : Obligations.MsgLenReadsBack := by
  intro lo hi s hp hn hi0
  have hval := withLenHi_withLenLo hn lo hi
  refine ⟨s.setMsgLen _, (s.setMsgLen _).setMsgLen (withLenHi s.params (withLenLo s.params s.msgLen lo) hi), _, _,
    whenIdle_of_idle hi0, whenIdle_of_idle hi0, hval, rfl, rfl, ?_⟩
  obtain ⟨-, hlenW, -, -⟩ := hp
  rw [← hval]
  exact lenHi_lenLo (hlenW.trans (by decide)) (withLenHi_lt _ _ _ (withLenLo_lt _ _ _ hn))

/-- Settles O36: `ACCUM` on written operands does what the selection of the next block says, and each clause is one case of
that selection. -/
theorem accumAddsAndChoosesTheNextBlock : Obligations.AccumAddsAndChoosesTheNextBlock := by
  rintro s h hh hr hb hp rfl
  have accum {next : After} (hn : nextBlock s.plan s.block = some next) : exec .accum s = .next (s.accumulate next) :=
    execAccum_eq hh hr hb hp hn
  exact ⟨fun hs hlt => accum (nextBlock_msg_of_lt hs hlt), fun hs heq => accum (nextBlock_msg_of_eq hs heq),
    fun hs h128 => accum (next := .block ⟨.scr, 64⟩) (hs ▸ nextBlock_scr_first_long h128),
    fun hs h64 => accum (next := .finished) (hs ▸ nextBlock_scr_first_short h64),
    fun hs => accum (next := .finished) (hs ▸ nextBlock_scr_second s.plan)⟩

/-- Settles O45: a host instruction faults on an unwritten byte of `MSG` only, and under the invariant so does the selected
micro-step, which is never a bad phase. -/
theorem onlyUnwrittenMessageBytesFault : Obligations.OnlyUnwrittenMessageBytesFault := by
  intro s f hs h
  obtain ⟨rest, u, rfl, hc⟩ := fetch_cases s
  have hu := hs.setInbox rest
  unfold step at h
  obtain ⟨i, hf, hi⟩ | ⟨i, hf, hd⟩ | hf | hf | ⟨r, hf⟩ | ⟨hf, hbad⟩ := hc <;> rw [hf] at h
  · exact (exec_hostAnswer hi).fault h
  · obtain ⟨t, ht⟩ | ht := hu.exec_micro_total hd
    · cases ht.symm.trans h
    · cases ht.symm.trans h; rfl
  · cases h
  · cases h
  · cases h
  · exact absurd hbad hu.decodePhase_ne_badPhase

/-- Settles O47: the invariant's status is legal, which leaves six words. -/
theorem statusTakesSixValues : Obligations.StatusTakesSixValues := by
  intro s hs
  obtain ⟨hbusy, hvalid, herr, -, hlt⟩ := id hs.status
  exact ⟨State.statusWord_mem hs.status, hbusy, hvalid, herr, hlt⟩

/-- Settles O48: among the host's instructions only those that issue a command clear the digest; among the micro-steps `CHECK`
clears it with its error and `SERIAL` writes the accumulator. -/
theorem onlyStartErrorsAndSerialWriteTheDigest : Obligations.OnlyStartErrorsAndSerialWriteTheDigest := by
  intro i s t h hne
  cases hm : i.isMicroStep with
  | false =>
    obtain hs | ⟨hc, hz, hend⟩ := (exec_hostAnswer hm).digest h
    · exact absurd hs hne
    · refine .inl ⟨hz, hend, ?_⟩
      obtain hstart | hctrl | hrsvd := Instr.issuesCommand_cases hc
      · exact .inl hstart
      · exact .inr (.inl hctrl)
      · exact .inr (.inr (.inr hrsvd))
  | true =>
    obtain hs | ⟨hc, hz, hend⟩ | hserial := (exec_micro hm h).digest
    · exact absurd hs hne
    · exact .inl ⟨hz, hend, .inr (.inr (.inl hc))⟩
    · exact .inr hserial

/-- Settles O49: only `WR_MSG` stores a byte, and reads of the other addresses do not see it. -/
theorem onlyMessageWritesChangeMemory : Obligations.OnlyMessageWritesChangeMemory := by
  intro i s t a h hi
  obtain hm | ⟨a', b, rfl, hm⟩ := exec_mem h
  · rw [hm]
  · rw [hm]
    exact Memory.read_write_other s.mem b fun ha => hi b (by rw [ha])

end Sys2Proof.Machine
end

section
/-! PROOFS. Family 20_memory: which host accesses are refused and which have no effect, reads, the busy engine, the single event
that ends an operation, and byte order (R51, R52, R55, R57, R59, R64, R93 to R95, R99, R116, R184, R188). -/

namespace Sys2Proof

/-! ### What the decoder rejects -/

/-- A `REG` access of another width or alignment is rejected (R55). -/
theorem decodeReg_of_misaligned {a : Access} (h : a.width ≠ 32 ∨ a.loc % 4 ≠ 0) :
    decodeReg a = .error .misalignedOrWide :=
  if_neg (by omega)

/-- A `REG` read of 32 bits at a multiple of 4 reads the register there (R55, R58). -/
theorem decodeReg_of_read {a : Access} (hw : a.width = 32) (h4 : a.loc % 4 = 0) (hd : a.dir = .read) :
    decodeReg a = decodeRegRead a.loc := by
  simp [decodeReg, hw, h4, hd]

/-- A `REG` write of 32 bits at a multiple of 4 writes the register there (R55, R58). -/
theorem decodeReg_of_write {a : Access} (hw : a.width = 32) (h4 : a.loc % 4 = 0) (hd : a.dir = .write) :
    decodeReg a = decodeRegWrite a.loc a.data := by
  simp [decodeReg, hw, h4, hd]

/-- A `MSG` access that is no byte wide is rejected, at any address (R55; log entry 10). -/
theorem decodeMsg_of_wide (p : Params) {a : Access} (h : a.width ≠ 8) : decodeMsg p a = .error .misalignedOrWide :=
  if_neg h

/-- A `MSG` byte at or above `MSG_CAP` is rejected (R59). -/
theorem decodeMsg_of_le {p : Params} {a : Access} (hw : a.width = 8) (h : p.msgCap ≤ a.loc) :
    decodeMsg p a = .error .outOfWindow := by
  simp [decodeMsg, hw, h]

/-- An `OUT` access that is no byte wide is rejected, at any index (R55; log entry 10). -/
theorem decodeOut_of_wide {a : Access} (h : a.width ≠ 8) : decodeOut a = .error .misalignedOrWide :=
  if_neg h

/-- An `OUT` byte at or above 20 is rejected, read or written (R59). -/
theorem decodeOut_of_le {a : Access} (hw : a.width = 8) (h : 20 ≤ a.loc) : decodeOut a = .error .outOfWindow := by
  cases hd : a.dir <;> simp [decodeOut, hw, hd, h]

/-- An offset from `0x24` to `0xFC` is read as a reserved one (R59). -/
theorem decodeRegRead_of_reserved {off : Nat} (hlo : 0x24 ≤ off) (hhi : off ≤ 0xFC) :
    decodeRegRead off = .ok (.rdRsvd (BitVec.ofNat 8 off)) := by
  unfold decodeRegRead
  split
  case h_10 => exact if_pos hhi
  all_goals omega

/-- An offset from `0x24` to `0xFC` is written as a reserved one (R59). -/
theorem decodeRegWrite_of_reserved {off : Nat} (hlo : 0x24 ≤ off) (hhi : off ≤ 0xFC) (v : Word) :
    decodeRegWrite off v = .ok (.wrRsvd (BitVec.ofNat 8 off) v) := by
  unfold decodeRegWrite
  split
  case h_10 => exact if_pos hhi
  all_goals omega

/-! ### Reads by name -/

/-- The instruction is a host read (R75). -/
def Instr.isRead : Instr → Bool
  | .rdCtrl | .rdStatus | .rdMsgLenLo | .rdMsgLenHi | .rdDigest0 | .rdDigest1 | .rdDigest2 | .rdDigest3 | .rdDigest4
  | .rdRsvd _ | .rdMsg _ | .rdOut _ => true
  | _ => false

end Sys2Proof

namespace Sys2Proof.Machine

/-! ### Refused accesses -/

/-- An entry at the head of the schedule that the fetch refuses is refused by the step. -/
theorem step_of_fetchEvent_refuse {s : State} {e : Event} {rest : List Event} {r : Refusal} (hs : s.inbox = e :: rest)
    (h : fetchEvent e (s.setInbox rest) = .refuse r) : step s = .refused r := by
  simp [step, fetch, hs, h]

/-- A scheduled bus access whose width or alignment is rejected is refused by that name (R55, R188). -/
theorem step_bus_of_misaligned {s : State} {a : Access} {rest : List Event} (hs : s.inbox = .bus a :: rest)
    (h : decodeAccess s.params a = .error .misalignedOrWide) : step s = .refused .misalignedOrWide :=
  step_of_fetchEvent_refuse hs (by simp [fetchEvent, fetchCode, decode, h])

/-- A scheduled bus access outside the windows is refused by that name (R59, R188). -/
theorem step_bus_of_outOfWindow {s : State} {a : Access} {rest : List Event} (hs : s.inbox = .bus a :: rest)
    (h : decodeAccess s.params a = .error .outOfWindow) : step s = .refused .outOfWindow :=
  step_of_fetchEvent_refuse hs (by simp [fetchEvent, fetchCode, decode, h])

/-! ### Reads -/

/-- The meaning `m` reads only: a state it leaves differs from the one before it in the data returned to the host alone, and
`m` leaves that state as it is (R57). -/
def ReadsOnly (m : State → Result) : Prop :=
  ∀ s t, m s = .next t → t = s.giveBack t.returned ∧ m t = .next t

@[simp] theorem State.giveBack_giveBack (s : State) (r r' : Returned) : (s.giveBack r).giveBack r' = s.giveBack r' := rfl

/-- Returning a word that does not depend on the data returned before reads only. -/
theorem readsOnly_answerWord {f : State → Word} (hf : ∀ s r, f (s.giveBack r) = f s) :
    ReadsOnly fun s => answerWord (f s) s := by
  rintro s t h
  cases h
  exact ⟨rfl, by simp [answerWord, hf]⟩

theorem readsOnly_execRdMsg (a : Nat) : ReadsOnly (execRdMsg a) := by
  intro s t h
  unfold execRdMsg at h
  split at h
  · next ha =>
    split at h
    · next b hb => cases h; exact ⟨rfl, by simp [execRdMsg, answerByte, ha, hb]⟩
    · cases h
  · cases h

theorem readsOnly_execRdOut (k : Nat) : ReadsOnly (execRdOut k) := by
  intro s t h
  unfold execRdOut at h
  split at h
  · next hk => cases h; exact ⟨rfl, by simp [execRdOut, answerByte, hk]⟩
  · cases h

/-- Every host read reads only (R57). -/
theorem readsOnly_exec {i : Instr} (hi : i.isRead = true) : ReadsOnly (exec i) := by
  cases i with
  | rdCtrl | rdStatus | rdMsgLenLo | rdMsgLenHi | rdDigest0 | rdDigest1 | rdDigest2 | rdDigest3 | rdDigest4 | rdRsvd =>
    exact readsOnly_answerWord fun _ _ => rfl
  | rdMsg a => exact readsOnly_execRdMsg a
  | rdOut k => exact readsOnly_execRdOut k
  | _ => cases hi

/-! ### The busy engine -/

/-- While the engine is busy a host instruction leaves nothing but the data returned to the host (R57, R93 to R95, R99). -/
theorem HostEffect.eq_giveBack_of_busy {s t : State} (h : HostEffect s t) (hb : s.phase ≠ Phase.idle) :
    t = s.giveBack t.returned := by
  cases h with
  | same | read => rfl
  | lenLo _ hi | lenHi _ hi | byte _ _ hi | lengthRange hi | illegal hi | accepted hi => exact absurd hi hb

/-! ### The end of an operation -/

/-- `t` is what an error leaves: idle, with an error code and a zero digest (R184). -/
def State.endedInError (t : State) : Prop :=
  t.phase = Phase.idle ∧ t.done = true ∧ t.valid = false ∧ t.err ≠ 0#4 ∧ t.digest = zeroDigest

theorem State.endedInError_raise (s : State) (e : HwError) : (s.raise e).endedInError :=
  ⟨rfl, rfl, rfl, errorCode_ne_zero e, rfl⟩

/-- A host instruction leaves `DONE` as it was, but for an accepted `START`, which clears it, and for an error. -/
theorem HostEffect.done {s t : State} (h : HostEffect s t) : t.done = s.done ∨ t.done = false ∨ t.endedInError := by
  cases h with
  | same | read | lenLo | lenHi | byte => exact .inl rfl
  | accepted => exact .inr (.inl rfl)
  | lengthRange | illegal => exact .inr (.inr (s.endedInError_raise _))

theorem State.accumulate_done (s : State) (next : After) : (s.accumulate next).done = s.done := by
  cases next <;> rfl

/-- A micro-step leaves `DONE` as it was, but for the error of `CHECK` and for `SERIAL` (R116, R181). -/
theorem MicroEffect.done {s t : State} {i : Instr} (h : MicroEffect s i t) :
    t.done = s.done ∨ t.endedInError ∨ (i = .serial ∧ t = s.publish) := by
  cases h with
  | inconsistent => exact .inr (.inl (s.endedInError_raise _))
  | serial => exact .inr (.inr ⟨rfl, rfl⟩)
  | accum next => exact .inl (s.accumulate_done next)
  | init | pad | checked | load | expand | round0019 | round2039 | round4059 | round6079 => exact .inl rfl

/-- A step that sets `DONE` ends an operation: with an error, or with `SERIAL` (R64). -/
theorem step_sets_done {s t : State} (h : step s = .next t) (hs : s.done = false) (ht : t.done = true) :
    t.endedInError ∨ (s.phase = Phase.serial ∧ ∃ rest, t = (s.setInbox rest).publish) := by
  obtain ⟨rest, u, rfl, hc⟩ := step_cases h
  have hne : t.done ≠ s.done := by simp [hs, ht]
  obtain rfl | rfl | he | ⟨i, hd, he⟩ := hc
  · exact absurd rfl hne
  · cases ht
  · obtain hsame | hclear | herr := he.done
    · exact absurd hsame hne
    · cases hclear.symm.trans ht
    · exact .inl herr
  · obtain hsame | herr | ⟨rfl, rfl⟩ := he.done
    · exact absurd hsame hne
    · exact .inl herr
    · exact .inr ⟨decodePhase_phase hd, rest, rfl⟩

/-! ### Byte order -/

/-- Bit `i` of a word made of four bytes is a bit of the one byte that covers it (R51). -/
theorem getElem_be32 (b0 b1 b2 b3 : Byte) {i : Nat} (hi : i < 32) :
    (be32 b0 b1 b2 b3)[i] =
      if i < 8 then b3.getLsbD i
      else if i < 16 then b2.getLsbD (i - 8)
      else if i < 24 then b1.getLsbD (i - 16)
      else b0.getLsbD (i - 24) := by
  simp only [be32, BitVec.getElem_or, BitVec.getElem_shiftLeft, BitVec.getElem_setWidth]
  split_ifs <;> grind

/-- A word is its four bytes side by side, most significant first (R51). -/
theorem be32_eq_append (b0 b1 b2 b3 : Byte) : be32 b0 b1 b2 b3 = (b0 ++ b1 ++ b2 ++ b3 : Word) := by
  ext i hi
  rw [getElem_be32]
  show _ = (b0 ++ b1 ++ b2 ++ b3 : BitVec (8 + 8 + 8 + 8))[i]
  simp only [BitVec.getElem_append]
  split_ifs <;> grind

@[simp] theorem bytesBe_length {wd : Nat} (v : BitVec wd) (n : Nat) : (bytesBe v n).length = n := by
  simp [bytesBe]

/-- Byte `k` of the `n` bytes of a value (R52). -/
theorem bytesBe_getElem? {wd n k : Nat} (v : BitVec wd) (hk : k < n) :
    (bytesBe v n)[k]? = some ((v >>> (8 * (n - 1 - k))).setWidth 8) := by
  simp [bytesBe, hk]

/-- The four bytes of a word (R52). -/
theorem bytesBe_four (w : Word) :
    bytesBe w 4 = [(w >>> 24).setWidth 8, (w >>> 16).setWidth 8, (w >>> 8).setWidth 8, (w >>> 0).setWidth 8] := rfl

/-- The bytes of a word made of four bytes are those bytes (R51, R52). -/
theorem bytesBe_be32 (b0 b1 b2 b3 : Byte) : bytesBe (be32 b0 b1 b2 b3) 4 = [b0, b1, b2, b3] := by
  have byte (n : Nat) (b : Byte) (hb : ∀ i, (hi : i < 8) → (be32 b0 b1 b2 b3).getLsbD (n + i) = b[i]) :
      ((be32 b0 b1 b2 b3) >>> n).setWidth 8 = b := by
    ext i hi
    simpa using hb i hi
  rw [bytesBe_four, byte 24 b0, byte 16 b1, byte 8 b2, byte 0 b3]
  all_goals
    intro i hi
    rw [BitVec.getLsbD_eq_getElem (by omega), getElem_be32]
    grind

/-- The word made of a word's bytes is that word (R51, R52). -/
theorem be32_bytes (w : Word) :
    be32 ((w >>> 24).setWidth 8) ((w >>> 16).setWidth 8) ((w >>> 8).setWidth 8) ((w >>> 0).setWidth 8) = w := by
  ext i hi
  rw [getElem_be32]
  split_ifs <;> grind

/-- Word `j` of a block is made of its bytes `4j` to `4j + 3` (R51, R158). -/
theorem blockWord_toList (x : Vector Byte 64) (j : Fin 16) :
    blockWord x.toList j.val = be32 x[4 * j.val] x[4 * j.val + 1] x[4 * j.val + 2] x[4 * j.val + 3] := by
  have byte (k : Nat) (hk : k < 64) : x.toList.getD k 0#8 = x[k] := by simp [hk]
  rw [blockWord, byte _ (by omega), byte _ (by omega), byte _ (by omega), byte _ (by omega)]

/-! ### The obligations -/

/-- Settles O9: the width and the alignment are looked at before the window, in every space. -/
theorem misalignedOrWideAccessIsRefused : Obligations.MisalignedOrWideAccessIsRefused := by
  intro s a rest hs h
  refine step_bus_of_misaligned hs ?_
  unfold decodeAccess
  obtain ⟨hr, h⟩ | ⟨hr, h⟩ := h
  · rw [hr]; exact decodeReg_of_misaligned h
  · have h8 : a.width ≠ 8 := by omega
    cases ha : a.space with
    | reg => exact absurd ha hr
    | msg => exact decodeMsg_of_wide s.params h8
    | out => exact decodeOut_of_wide h8

/-- Settles O10: a reserved offset decodes to the read that returns zero or to the ignored write, and a byte past its window
is rejected. -/
theorem reservedOffsetsAndWindows : Obligations.ReservedOffsetsAndWindows := by
  intro s a rest hs
  refine ⟨fun hr hw h4 hlo hhi => ?_, fun hm hw h => ?_, fun ho hw h => ?_⟩
  · have hdec : decode s.params (.bus a) = decodeReg a := by rw [decode, decodeAccess, hr]
    refine ⟨fun hd => ?_, fun hd => ?_⟩
    · exact step_bus_of_decode hs
        (hdec.trans ((decodeReg_of_read hw h4 hd).trans (decodeRegRead_of_reserved hlo hhi)))
    · exact step_bus_of_decode hs
        (hdec.trans ((decodeReg_of_write hw h4 hd).trans (decodeRegWrite_of_reserved hlo hhi a.data)))
  · exact step_bus_of_outOfWindow hs (by rw [decodeAccess, hm]; exact decodeMsg_of_le hw h)
  · exact step_bus_of_outOfWindow hs (by rw [decodeAccess, ho]; exact decodeOut_of_le hw h)

/-- Settles O28: each instruction of the list is a read, and a read returns data that do not depend on those returned
before. -/
theorem readsHaveNoSideEffect : Obligations.ReadsHaveNoSideEffect := by
  intro i off a s t hi h
  have hread : i.isRead = true := by
    simp only [List.mem_cons, List.not_mem_nil, or_false] at hi
    obtain rfl | rfl | rfl | rfl | rfl | rfl | rfl | rfl | rfl | rfl | rfl | rfl := hi <;> rfl
  exact readsOnly_exec hread s t h

/-- Settles O42: a word is its four bytes side by side, and the bytes of a word and the word of bytes are inverse. -/
theorem bigEndianBytesAndWords : Obligations.BigEndianBytesAndWords :=
  ⟨be32_eq_append, fun _ _ _ v hk => bytesBe_getElem? v hk, fun _ n v => bytesBe_length v n,
    fun x j => (blockWord_toList x j).trans (be32_eq_append ..), bytesBe_be32,
    fun w => ⟨_, _, _, _, bytesBe_four w, be32_bytes w⟩⟩

/-- Settles O50: every other effect of a host instruction needs an idle engine. -/
theorem hostCannotDisturbABusyEngine : Obligations.HostCannotDisturbABusyEngine := fun _ _ _ hi hb h =>
  (exec_host hi h).eq_giveBack_of_busy hb

/-- Settles O52: only an error and `SERIAL` set `DONE`, and each writes the whole end of the operation at once. -/
theorem endIsPublishedInOneStep : Obligations.EndIsPublishedInOneStep := by
  intro s t _ hs h ht
  obtain ⟨hi, -, hv, he, hz⟩ | ⟨hp, rest, rfl⟩ := step_sets_done h hs ht
  · exact ⟨hi, .inr ⟨hv, he, hz⟩⟩
  · exact ⟨rfl, .inl ⟨rfl, rfl, hp, rfl⟩⟩

end Sys2Proof.Machine
end

section
/-! PROOFS. Family 30_encoding: the decoder and the encoder are inverse but for what chooses no instruction, the command word,
and the micro-step that `PHASE` and `t` select (R70 to R72, R75 to R78, R90 to R93, R157, R186). -/

namespace Sys2Proof

/-! ### Command words -/

@[simp] theorem commandWord_op (op : BitVec 4) (rsvd : BitVec 28) : (commandWord op rsvd).extractLsb' 0 4 = op :=
  BitVec.extractLsb'_append_eq_right

@[simp] theorem commandWord_rsvd (op : BitVec 4) (rsvd : BitVec 28) : (commandWord op rsvd).extractLsb' 4 28 = rsvd :=
  BitVec.extractLsb'_append_eq_left

/-- A word is the command word of its two fields (R70). -/
theorem commandWord_fields (w : Word) : commandWord (w.extractLsb' 0 4) (w.extractLsb' 4 28) = w :=
  BitVec.extractLsb'_append_extractLsb' (w := 28) (len := 4) (x := w)

/-- A word is the command word of an opcode number that its `OP` field holds. -/
theorem commandWord_of_op {w : Word} {n : Nat} (h : (w.extractLsb' 0 4).toNat = n) :
    commandWord (BitVec.ofNat 4 n) (w.extractLsb' 4 28) = w := by
  rw [← h, BitVec.ofNat_toNat, BitVec.setWidth_eq, commandWord_fields]

/-- Every command word decodes to a well-formed instruction. -/
theorem decodeCommand_wellFormed (p : Params) (w : Word) : (decodeCommand w).wellFormed p = true := by
  unfold decodeCommand
  dsimp only
  split <;> rfl

/-- The encoder writes the whole command word back, its ignored bits with it (R71, R72). -/
theorem encode_decodeCommand (w : Word) : encode (decodeCommand w) = .cmd w := by
  unfold decodeCommand
  dsimp only
  split
  case h_16 =>
    have h15 : (w.extractLsb' 0 4).toNat = 15 := by grind
    exact congrArg Code.cmd (commandWord_of_op h15)
  all_goals exact congrArg Code.cmd (commandWord_of_op ‹_›)

/-! ### Accesses -/

/-- A read of 32 bits at a multiple of 4 decodes by its offset (R75). -/
theorem decode_regRead (p : Params) {off : Nat} (h4 : off % 4 = 0) : decode p (regRead off) = decodeRegRead off :=
  decodeReg_of_read rfl h4 rfl

/-- A write of 32 bits at a multiple of 4 decodes by its offset (R75). -/
theorem decode_regWrite (p : Params) {off : Nat} (h4 : off % 4 = 0) (v : Word) :
    decode p (regWrite off v) = decodeRegWrite off v :=
  decodeReg_of_write rfl h4 rfl

/-- A `REG` offset fits the eight bits that a reserved access carries (R50). -/
theorem toNat_ofNat_offset {off : Nat} (h : off ≤ 0xFC) : (BitVec.ofNat 8 off).toNat = off :=
  Nat.mod_eq_of_lt (Nat.lt_of_le_of_lt h (by decide))

/-- What is read at an aligned offset is well formed and is encoded with that offset (R75). -/
theorem decodeRegRead_ok {p : Params} {off : Nat} {i : Instr} (h4 : off % 4 = 0) (h : decodeRegRead off = .ok i) :
    i.wellFormed p = true ∧ encode i = regRead off := by
  unfold decodeRegRead at h
  split at h
  case h_10 =>
    split at h
    · next hhi =>
      cases h
      have hoff := toNat_ofNat_offset hhi
      have hrange : 0x24 ≤ off ∧ off ≤ 0xFC ∧ off % 4 = 0 := by grind
      exact ⟨decide_eq_true (hoff.symm ▸ hrange), congrArg regRead hoff⟩
    · cases h
  all_goals cases h; exact ⟨rfl, rfl⟩

/-- What is written at an aligned offset is well formed and is encoded with that offset and value (R75). -/
theorem decodeRegWrite_ok {p : Params} {off : Nat} {v : Word} {i : Instr} (h4 : off % 4 = 0)
    (h : decodeRegWrite off v = .ok i) : i.wellFormed p = true ∧ encode i = regWrite off v := by
  unfold decodeRegWrite at h
  split at h
  case h_10 =>
    split at h
    · next hhi =>
      cases h
      have hoff := toNat_ofNat_offset hhi
      have hrange : 0x24 ≤ off ∧ off ≤ 0xFC ∧ off % 4 = 0 := by grind
      exact ⟨decide_eq_true (hoff.symm ▸ hrange), congrArg (regWrite · v) hoff⟩
    · cases h
  all_goals cases h; exact ⟨rfl, rfl⟩

/-- A byte read of `MSG` below `MSG_CAP` is admitted (R55, R75). -/
theorem decode_msgRead {p : Params} {a : Nat} (h : a < p.msgCap) (d : Word) :
    decode p (.bus ⟨.msg, a, 8, .read, d⟩) = .ok (.rdMsg a) := by
  simp [decode, decodeAccess, decodeMsg, h]

/-- A byte write of `MSG` below `MSG_CAP` is admitted, with the low byte of its data (R55, R75). -/
theorem decode_msgWrite {p : Params} {a : Nat} (h : a < p.msgCap) (d : Word) :
    decode p (.bus ⟨.msg, a, 8, .write, d⟩) = .ok (.wrMsg a (d.extractLsb' 0 8)) := by
  simp [decode, decodeAccess, decodeMsg, h]

/-- A byte read of `OUT` below 20 is admitted (R55, R75). -/
theorem decode_outRead (p : Params) {k : Nat} (h : k < 20) (d : Word) :
    decode p (.bus ⟨.out, k, 8, .read, d⟩) = .ok (.rdOut k) := by
  simp [decode, decodeAccess, decodeOut, h]

/-- The low byte of a byte widened to a word is that byte. -/
theorem extractLsb'_low_setWidth (b : Byte) : (b.setWidth 32 : Word).extractLsb' 0 8 = b := by
  rw [BitVec.extractLsb'_setWidth_of_le (by decide), BitVec.extractLsb'_eq_self]

/-- A byte cut from a word and widened again is the word with bits 31:8 cleared (log entry 10). -/
theorem setWidth_extractLsb'_low (d : Word) : (d.extractLsb' 0 8).setWidth 32 = d &&& 0x000000FF#32 := by
  refine BitVec.eq_of_toNat_eq ?_
  rw [BitVec.toNat_setWidth, BitVec.extractLsb'_toNat, BitVec.toNat_and]
  exact (Nat.mod_eq_of_lt (by omega)).trans (Nat.and_two_pow_sub_one_eq_mod d.toNat 8).symm

/-- The access `b` is the access `a` but for the data of a read and the data above the byte that `MSG` stores (R75; log
entry 10). -/
def Access.sameBut (a b : Access) : Prop :=
  b.space = a.space ∧ b.loc = a.loc ∧ b.width = a.width ∧ b.dir = a.dir ∧
    (a.dir = .write → b.data = if a.space = .reg then a.data else a.data &&& 0x000000FF#32)

/-- An access that decodes is encoded as itself, but for the data that choose nothing (R75). -/
def ReadBack (p : Params) (a : Access) (i : Instr) : Prop :=
  i.wellFormed p = true ∧ ∃ b, encode i = .bus b ∧ a.sameBut b

/-- A `REG` access reads back whole, a write with all its data (R55, R75). -/
theorem decodeReg_readBack {p : Params} {a : Access} {i : Instr} (hs : a.space = .reg) (h : decodeReg a = .ok i) :
    ReadBack p a i := by
  unfold decodeReg at h
  split at h
  · next hwl =>
    obtain ⟨hw, h4⟩ := hwl
    split at h
    · next hd =>
      obtain ⟨hwf, he⟩ := decodeRegRead_ok h4 h
      exact ⟨hwf, _, he, hs.symm, rfl, hw.symm, hd.symm, by simp [hd]⟩
    · next hd =>
      obtain ⟨hwf, he⟩ := decodeRegWrite_ok h4 h
      exact ⟨hwf, _, he, hs.symm, rfl, hw.symm, hd.symm, by simp [hs]⟩
  · cases h

/-- A `MSG` access reads back, a write with the byte it stores (R75; log entry 10). -/
theorem decodeMsg_readBack {p : Params} {a : Access} {i : Instr} (hs : a.space = .msg) (h : decodeMsg p a = .ok i) :
    ReadBack p a i := by
  unfold decodeMsg at h
  split at h
  · next hw =>
    split at h
    · next hl =>
      split at h
      · next hd =>
        cases h
        exact ⟨decide_eq_true hl, _, rfl, hs.symm, rfl, hw.symm, hd.symm, by simp [hd]⟩
      · next hd =>
        cases h
        exact ⟨decide_eq_true hl, _, rfl, hs.symm, rfl, hw.symm, hd.symm, by simp [hs, setWidth_extractLsb'_low]⟩
    · cases h
  · cases h

/-- An `OUT` access that is admitted is a read, and reads back (R75). -/
theorem decodeOut_readBack {p : Params} {a : Access} {i : Instr} (hs : a.space = .out) (h : decodeOut a = .ok i) :
    ReadBack p a i := by
  unfold decodeOut at h
  split at h
  · next hw =>
    split at h
    · next hd =>
      split at h
      · next hl =>
        cases h
        exact ⟨decide_eq_true hl, _, rfl, hs.symm, rfl, hw.symm, hd.symm, by simp [hd]⟩
      · cases h
    · cases h
  · cases h

/-- Every admitted access reads back (R75). -/
theorem decodeAccess_readBack {p : Params} {a : Access} {i : Instr} (h : decodeAccess p a = .ok i) : ReadBack p a i := by
  unfold decodeAccess at h
  split at h
  · next hs => exact decodeReg_readBack hs h
  · next hs => exact decodeMsg_readBack hs h
  · next hs => exact decodeOut_readBack hs h

end Sys2Proof

namespace Sys2Proof.Machine

/-! ### The micro-step that `PHASE` and `t` select -/

/-- `EXPAND` is selected for `t` in `16..79` (R76, R78). -/
theorem decodePhase_expand {t : BitVec 7} (hlo : 16 ≤ t.toNat) (hhi : t.toNat ≤ 79) :
    decodePhase Phase.expand t = .ok .expand :=
  if_pos ⟨hlo, hhi⟩

theorem decodeRound_0019 {t : BitVec 7} (h : t.toNat ≤ 19) : decodeRound t = .ok .round0019 := by
  simp [decodeRound, h]

theorem decodeRound_2039 {t : BitVec 7} (hlo : 20 ≤ t.toNat) (hhi : t.toNat ≤ 39) :
    decodeRound t = .ok .round2039 := by
  rw [decodeRound, if_neg (by omega), if_pos hhi]

theorem decodeRound_4059 {t : BitVec 7} (hlo : 40 ≤ t.toNat) (hhi : t.toNat ≤ 59) :
    decodeRound t = .ok .round4059 := by
  rw [decodeRound, if_neg (by omega), if_neg (by omega), if_pos hhi]

theorem decodeRound_6079 {t : BitVec 7} (hlo : 60 ≤ t.toNat) (hhi : t.toNat ≤ 79) :
    decodeRound t = .ok .round6079 := by
  rw [decodeRound, if_neg (by omega), if_neg (by omega), if_neg (by omega), if_pos hhi]

/-- No row of R157 holds an index above 79 (R78). -/
theorem decodeRound_of_gt {t : BitVec 7} (h : 79 < t.toNat) : decodeRound t = .error .badPhase := by
  rw [decodeRound, if_neg (by omega), if_neg (by omega), if_neg (by omega), if_neg (by omega)]

/-- What is never written is a bad phase: a code from `0x9` up, and an index outside the range of its phase (R78). -/
theorem decodePhase_badPhase {c : BitVec 4} {t : BitVec 7}
    (h : 9 ≤ c.toNat ∨ (c = Phase.expand ∧ (t.toNat < 16 ∨ 79 < t.toNat)) ∨ (c = Phase.round ∧ 79 < t.toNat)) :
    decodePhase c t = .error .badPhase := by
  obtain h9 | ⟨rfl, ht⟩ | ⟨rfl, ht⟩ := h
  · unfold decodePhase
    split
    case h_10 => rfl
    all_goals omega
  · exact if_neg (by omega)
  · exact decodeRound_of_gt ht

/-- Out of `IDLE` a micro-step is selected, or the phase is bad (R76 to R78). -/
theorem decodePhase_total {c : BitVec 4} (hc : c ≠ Phase.idle) (t : BitVec 7) :
    (∃ i, decodePhase c t = .ok i) ∨ decodePhase c t = .error .badPhase := by
  have hround : (∃ i, decodeRound t = .ok i) ∨ decodeRound t = .error .badPhase := by
    unfold decodeRound
    split_ifs <;> simp
  unfold decodePhase
  split
  case h_1 h => exact absurd (BitVec.eq_of_toNat_eq h) hc
  case h_6 => split <;> simp
  case h_7 => exact hround
  case h_10 => exact .inr rfl
  all_goals exact .inl ⟨_, rfl⟩

/-- Under the invariant a busy engine has a micro-step (R77, R78). -/
theorem State.Inv.exists_microStep {s : State} (hs : s.Inv) (hb : s.phase ≠ Phase.idle) :
    ∃ i, decodePhase s.phase s.t = .ok i :=
  (decodePhase_total hb s.t).resolve_right hs.decodePhase_ne_badPhase

/-- With nothing scheduled, a bad phase faults (R78). -/
theorem step_engine_badPhase {s : State} (hs : s.inbox = []) (h : decodePhase s.phase s.t = .error .badPhase) :
    step s = .fault .badPhase := by
  simp [step, fetch, hs, fetchMicroStep, fetchCode, decode, h]

/-- Under the invariant `PHASE` and `t` are in the ranges that R78 asks for. -/
theorem State.Inv.phase_inRange {s : State} (hs : s.Inv) :
    s.phase.toNat < 9 ∧ (s.phase = Phase.expand → 16 ≤ s.t.toNat ∧ s.t.toNat ≤ 79) ∧
      (s.phase = Phase.round → s.t.toNat ≤ 79) := by
  obtain ⟨hle, -, -, -, hexpand, hround, -, -⟩ := hs.sequenced
  refine ⟨Nat.lt_succ_of_le hle, fun hp => ?_, fun hp => ?_⟩
  · obtain ⟨-, -, hlo, hhi, -⟩ := hexpand hp
    exact ⟨hlo, hhi⟩
  · obtain ⟨-, -, hhi, -⟩ := hround hp
    exact hhi

/-- Two indices are in the same row of R157. -/
def SameRow (t t' : BitVec 7) : Prop :=
  (t.toNat ≤ 19 ∧ t'.toNat ≤ 19) ∨
  (20 ≤ t.toNat ∧ t.toNat ≤ 39 ∧ 20 ≤ t'.toNat ∧ t'.toNat ≤ 39) ∨
  (40 ≤ t.toNat ∧ t.toNat ≤ 59 ∧ 40 ≤ t'.toNat ∧ t'.toNat ≤ 59) ∨
  (60 ≤ t.toNat ∧ t.toNat ≤ 79 ∧ 60 ≤ t'.toNat ∧ t'.toNat ≤ 79)

/-- A round row is encoded with the least index of the row that selected it (R157). -/
theorem decodeRound_readBack {p : Params} {t : BitVec 7} {i : Instr} (h : decodeRound t = .ok i) :
    i.wellFormed p = true ∧ ∃ t', encode i = .phase Phase.round t' ∧ SameRow t t' := by
  obtain ⟨h2, rfl⟩ | ⟨h1, h2, rfl⟩ | ⟨h1, h2, rfl⟩ | ⟨h1, h2, rfl⟩ := decodeRound_ok h
  · exact ⟨rfl, _, rfl, .inl ⟨h2, by decide⟩⟩
  · exact ⟨rfl, _, rfl, .inr (.inl ⟨h1, h2, by decide, by decide⟩)⟩
  · exact ⟨rfl, _, rfl, .inr (.inr (.inl ⟨h1, h2, by decide, by decide⟩))⟩
  · exact ⟨rfl, _, rfl, .inr (.inr (.inr ⟨h1, h2, by decide, by decide⟩))⟩

/-- A micro-step is encoded with the `PHASE` code that selected it, and a `ROUND` with an index of its row (R76, R77). -/
theorem decodePhase_readBack {p : Params} {c : BitVec 4} {t : BitVec 7} {i : Instr} (h : decodePhase c t = .ok i) :
    i.wellFormed p = true ∧ ∃ t', encode i = .phase c t' ∧ (c = Phase.round → SameRow t t') := by
  obtain ⟨rfl, rfl⟩ | ⟨rfl, rfl⟩ | ⟨rfl, rfl⟩ | ⟨rfl, rfl⟩ | ⟨rfl, -, -, rfl⟩ | ⟨rfl, h⟩ | ⟨rfl, rfl⟩ | ⟨rfl, rfl⟩ :=
    decodePhase_ok h
  case inr.inr.inr.inr.inr.inl =>
    obtain ⟨hwf, t', he, hrow⟩ := decodeRound_readBack h
    exact ⟨hwf, t', he, fun _ => hrow⟩
  all_goals exact ⟨rfl, _, rfl, fun h => absurd h (by decide)⟩

/-! ### What a command does -/

/-- A command does what a write of its word to `CTRL` does: both look at `OP` alone (R70 to R72). -/
theorem exec_decodeCommand (w : Word) (s : State) : exec (decodeCommand w) s = performCommand w s := by
  unfold decodeCommand performCommand
  generalize w.extractLsb' 0 4 = op
  dsimp only
  by_cases h0 : op = 0x0#4
  · rw [h0]; rfl
  by_cases h1 : op = 0x1#4
  · rw [h1]; rfl
  rw [if_neg h0, if_neg h1]
  split
  case h_1 h => exact absurd (BitVec.eq_of_toNat_eq h) h0
  case h_2 h => exact absurd (BitVec.eq_of_toNat_eq h) h1
  all_goals rfl

/-- Clearing bits 31:4 of a word leaves its `OP` field (R72). -/
theorem op_clearReserved (w : Word) : (w &&& 0x0000000F#32).extractLsb' 0 4 = w.extractLsb' 0 4 := by
  have hones : (0x0000000F#32).extractLsb' 0 4 = BitVec.allOnes 4 := by decide
  rw [BitVec.extractLsb'_and, hones, BitVec.and_allOnes]

theorem performCommand_clearReserved (w : Word) (s : State) :
    performCommand (w &&& 0x0000000F#32) s = performCommand w s := by
  rw [performCommand, performCommand, op_clearReserved]

/-- While busy a command changes nothing, whatever its opcode (R93). -/
theorem performCommand_of_busy {s : State} (hb : s.phase ≠ Phase.idle) (v : Word) : performCommand v s = .next s := by
  simp [performCommand, startCommand, reservedCommand, hb]

theorem startCommand_of_le {s : State} (hi : s.phase = Phase.idle) (hl : s.msgLen ≤ s.params.msgCap) :
    startCommand s = .next s.accept := by
  simp [startCommand, hi, Nat.not_lt.mpr hl]

theorem startCommand_of_lt {s : State} (hi : s.phase = Phase.idle) (hl : s.params.msgCap < s.msgLen) :
    startCommand s = .next (s.raise .lengthRange) := by
  simp [startCommand, hi, hl]

theorem reservedCommand_of_idle {s : State} (hi : s.phase = Phase.idle) :
    reservedCommand s = .next (s.raise .illegalCommand) := by
  simp [reservedCommand, hi]

/-- An error raised while idle leaves `PHASE` as it is (R184). -/
theorem State.raise_of_idle {s : State} (hi : s.phase = Phase.idle) (e : HwError) :
    s.raise e = { s with digest := zeroDigest, done := true, valid := false, err := errorCode e } := by
  rw [State.raise, ← hi]

/-! ### The obligations -/

/-- Settles O1: an opcode and the ignored bits come back from the command word, an offset or address from the access, and the
encoder's `t` from the range of its row. -/
theorem encodedInstructionDecodesBack : Obligations.EncodedInstructionDecodesBack := by
  intro p i hi
  cases i with
  | nop | start | rsvdOp2 | rsvdOp3 | rsvdOp4 | rsvdOp5 | rsvdOp6 | rsvdOp7 | rsvdOp8 | rsvdOp9 | rsvdOpA | rsvdOpB
  | rsvdOpC | rsvdOpD | rsvdOpE | rsvdOpF => simp [encode, decode, decodeCommand]
  | rdCtrl | rdStatus | rdMsgLenLo | rdMsgLenHi | rdDigest0 | rdDigest1 | rdDigest2 | rdDigest3 | rdDigest4 =>
    exact decode_regRead p rfl
  | wrCtrl | wrStatus | wrMsgLenLo | wrMsgLenHi | wrDigest0 | wrDigest1 | wrDigest2 | wrDigest3 | wrDigest4 =>
    exact decode_regWrite p rfl _
  | rdRsvd off =>
    obtain ⟨hlo, hhi, h4⟩ := of_decide_eq_true hi
    exact (decode_regRead p h4).trans (by rw [decodeRegRead_of_reserved hlo hhi, BitVec.ofNat_toNat, BitVec.setWidth_eq])
  | wrRsvd off v =>
    obtain ⟨hlo, hhi, h4⟩ := of_decide_eq_true hi
    exact (decode_regWrite p h4 v).trans
      (by rw [decodeRegWrite_of_reserved hlo hhi, BitVec.ofNat_toNat, BitVec.setWidth_eq])
  | wrMsg a b =>
    have ha : a < p.msgCap := of_decide_eq_true hi
    exact (decode_msgWrite ha _).trans (by rw [extractLsb'_low_setWidth])
  | rdMsg a =>
    have ha : a < p.msgCap := of_decide_eq_true hi
    exact decode_msgRead ha _
  | rdOut k =>
    have hk : k < 20 := of_decide_eq_true hi
    exact decode_outRead p hk _
  | init | pad | check | load | expand | round0019 | round2039 | round4059 | round6079 | accum | serial => rfl

/-- Settles O2: a command word and an access are encoded from their own fields, and a phase code with a `t` of the same row. -/
theorem decodedCodeIsTheEncodingRead : Obligations.DecodedCodeIsTheEncodingRead := by
  intro p i
  refine ⟨fun w h => ?_, fun a h => decodeAccess_readBack h, fun c t h => ?_⟩
  · cases h
    exact ⟨decodeCommand_wellFormed p w, encode_decodeCommand w⟩
  · exact decodePhase_readBack h

/-- Settles O4: a command does what its `OP` says, which the cleared bits are no part of. -/
theorem commandIgnoresReservedBits : Obligations.CommandIgnoresReservedBits := by
  intro w s
  rw [exec_decodeCommand, exec_decodeCommand]
  exact ⟨(performCommand_clearReserved w s).symm, (performCommand_clearReserved w s).symm⟩

/-- Settles O6: `PHASE` and `t` decode to the micro-step of R76, and under the invariant some micro-step is decoded. -/
theorem engineStepIsTheMicroStepOfPhase : Obligations.EngineStepIsTheMicroStepOfPhase := by
  refine ⟨fun s hs => ?_, fun s hs hb => ?_⟩
  · have engine {c : BitVec 4} {i : Instr} (hp : s.phase = c) (hd : decodePhase c s.t = .ok i) : step s = exec i s :=
      step_engine hs (hp ▸ hd)
    exact ⟨fun hp => engine hp rfl, fun hp => engine hp rfl, fun hp => engine hp rfl, fun hp => engine hp rfl,
      fun hp hlo hhi => engine hp (decodePhase_expand hlo hhi),
      fun hp h => engine hp (decodeRound_0019 h), fun hp hlo hhi => engine hp (decodeRound_2039 hlo hhi),
      fun hp hlo hhi => engine hp (decodeRound_4059 hlo hhi), fun hp hlo hhi => engine hp (decodeRound_6079 hlo hhi),
      fun hp => engine hp rfl, fun hp => engine hp rfl⟩
  · obtain ⟨i, hi⟩ := hs.exists_microStep hb
    refine ⟨i, decodePhase_micro hi, fun j => ?_⟩
    rw [decode, hi, Except.ok.injEq, eq_comm]

/-- Settles O7: a bad phase decodes to no micro-step, and the invariant, which every step keeps, rules it out. -/
theorem badPhaseFaultsAndIsNeverReached : Obligations.BadPhaseFaultsAndIsNeverReached :=
  ⟨fun _ hs h => step_engine_badPhase hs (decodePhase_badPhase h),
    fun s t hs h => (everyStepKeepsTheInvariant s t hs h).phase_inRange⟩

/-- Settles O17: the write performs the command of its word, which a busy engine ignores and an idle one takes by `OP` first and
the length second. -/
theorem writeOfCtrlPerformsTheCommand : Obligations.WriteOfCtrlPerformsTheCommand := by
  intro v s
  refine ⟨(exec_decodeCommand v s).symm, ?_⟩
  show performCommand v s = _
  by_cases hi : s.phase = Phase.idle
  · by_cases h0 : v.extractLsb' 0 4 = 0x0#4
    · rw [performCommand, if_pos h0, if_pos (.inl h0)]
    rw [performCommand, if_neg h0, if_neg (not_or.mpr ⟨h0, not_not.mpr hi⟩)]
    by_cases h1 : v.extractLsb' 0 4 = 0x1#4
    · rw [if_pos h1, if_pos h1]
      by_cases hl : s.msgLen ≤ s.params.msgCap
      · rw [if_pos hl, startCommand_of_le hi hl]; rfl
      · rw [if_neg hl, startCommand_of_lt hi (Nat.lt_of_not_le hl), State.raise_of_idle hi]; rfl
    · rw [if_neg h1, if_neg h1, reservedCommand_of_idle hi, State.raise_of_idle hi]; rfl
  · rw [performCommand_of_busy hi, if_pos (.inr hi)]

/-- Settles O3: each encoding is run through the decoder; only the byte of `MSG` needs the bound on `MSG_CAP`. -/
theorem specEncodingsDecode : Obligations.SpecEncodingsDecode := by
  intro p hp
  exact ⟨rfl, rfl, rfl, rfl, rfl, rfl, decode_msgWrite hp _, rfl, rfl, rfl⟩

end Sys2Proof.Machine
end

section
/-! PROOFS. Family 40_host_interface: the commands (R90 to R93), the register accesses (R94 to R98, R102), the byte accesses
(R99 to R101), and host accesses beside the micro-steps of a busy engine (R103). -/

namespace Sys2Proof.Machine

/-! ### Commands -/

/-- The fourteen reserved commands have one meaning (R92). -/
theorem exec_of_mem_reserved {r : BitVec 28} {i : Instr}
    (hi : i ∈ [.rsvdOp2 r, .rsvdOp3 r, .rsvdOp4 r, .rsvdOp5 r, .rsvdOp6 r, .rsvdOp7 r, .rsvdOp8 r, .rsvdOp9 r, .rsvdOpA r,
      .rsvdOpB r, .rsvdOpC r, .rsvdOpD r, .rsvdOpE r, .rsvdOpF r]) (s : State) : exec i s = reservedCommand s := by
  simp only [List.mem_cons, List.not_mem_nil, or_false] at hi
  obtain rfl | rfl | rfl | rfl | rfl | rfl | rfl | rfl | rfl | rfl | rfl | rfl | rfl | rfl := hi <;> rfl

/-- While busy `START` is ignored (R93). -/
theorem startCommand_of_busy {s : State} (hb : s.phase ≠ Phase.idle) : startCommand s = .next s := by
  simp [startCommand, hb]

/-- While busy a reserved command is ignored (R93). -/
theorem reservedCommand_of_busy {s : State} (hb : s.phase ≠ Phase.idle) : reservedCommand s = .next s := by
  simp [reservedCommand, hb]

/-- An accepted `START` leaves `BUSY` alone in `STATUS` (R91). -/
theorem State.statusWord_accept (s : State) : s.accept.statusWord = 0x00000001#32 :=
  State.statusWord_of_busy (by rw [accept_phase]; decide) rfl rfl rfl

/-- An error leaves its code and `DONE` in `STATUS` (R184). -/
theorem State.statusWord_raise (s : State) (e : HwError) :
    (s.raise e).statusWord = ((errorCode e).setWidth 32 <<< 4) ||| 0x00000002#32 := by
  rw [State.statusWord_of_idle rfl, raise_err, raise_valid, raise_done]
  cases e <;> decide

/-! ### The status word -/

theorem getLsbD_bitWord (b : Bool) (i : Nat) : (bitWord b).getLsbD i = (decide (i = 0) && b) := by
  cases b <;> simp [bitWord]

/-- The status word bit by bit (R21, R97). -/
theorem State.getLsbD_statusWord (s : State) (i : Nat) :
    s.statusWord.getLsbD i =
      if i = 0 then s.busy else if i = 1 then s.done else if i = 2 then s.valid
      else decide (4 ≤ i) && s.err.getLsbD (i - 4) := by
  simp only [State.statusWord, BitVec.getLsbD_or, BitVec.getLsbD_shiftLeft, BitVec.getLsbD_setWidth, getLsbD_bitWord]
  split_ifs with h0 h1 h2
  · simp [h0]
  · simp [h1]
  · simp [h2]
  · have herr : 32 ≤ i → s.err.getLsbD (i - 4) = false := fun _ => BitVec.getLsbD_of_ge _ _ (by omega)
    grind

/-- Bits 7:4 of the status word are `ERR` (R21, R97). -/
theorem State.extractLsb'_statusWord_err (s : State) : s.statusWord.extractLsb' 4 4 = s.err := by
  ext i hi
  rw [BitVec.getElem_extractLsb', State.getLsbD_statusWord]
  grind

/-- Bits 31:8 of the status word are 0 (R21, R97). -/
theorem State.extractLsb'_statusWord_high (s : State) : s.statusWord.extractLsb' 8 24 = 0#24 := by
  ext i hi
  rw [BitVec.getElem_extractLsb', State.getLsbD_statusWord]
  grind

/-! ### The length register -/

/-- A write of the low part keeps the bits above it (R94). -/
theorem withLenLo_of_le {p : Params} (hp : 32 ≤ p.lenW) (n : Nat) (v : Word) :
    withLenLo p n v % 2 ^ 32 = v.toNat ∧ withLenLo p n v / 2 ^ 32 = n / 2 ^ 32 := by
  have hv := v.isLt
  rw [withLenLo, if_pos hp]
  omega

/-- A length narrower than the low part takes the low bits of the value (R94). -/
theorem withLenLo_of_lt {p : Params} (hp : p.lenW < 32) (n : Nat) (v : Word) :
    withLenLo p n v = v.toNat % 2 ^ p.lenW :=
  if_neg (by omega)

/-- A write of the high part keeps the bits below it (R95). -/
theorem withLenHi_of_lt {p : Params} (hp : 32 < p.lenW) (n : Nat) (v : Word) :
    withLenHi p n v % 2 ^ 32 = n % 2 ^ 32 ∧ withLenHi p n v / 2 ^ 32 = v.toNat % 2 ^ (p.lenW - 32) := by
  rw [withLenHi, if_pos hp]
  omega

/-- A length without a high part is not written there (R95). -/
theorem withLenHi_of_le {p : Params} (hp : p.lenW ≤ 32) (n : Nat) (v : Word) : withLenHi p n v = n :=
  if_neg (by omega)

/-- The low part of a length that fits `LEN_W` bits (R96). -/
theorem lenLo_toNat_of_lt {p : Params} {n : Nat} (hn : n < 2 ^ p.lenW) : (lenLo p n).toNat = n % 2 ^ 32 := by
  rw [lenLo_toNat]
  obtain hlt | hle := Nat.lt_or_ge p.lenW 32
  · have hn32 : n < 2 ^ 32 := hn.trans (Nat.pow_lt_pow_right (by decide) hlt)
    rw [Nat.min_eq_right hlt.le, Nat.mod_eq_of_lt hn, Nat.mod_eq_of_lt hn32]
  · rw [Nat.min_eq_left hle]

/-- The high part of a length that fits `LEN_W` bits (R96). -/
theorem lenHi_toNat_of_lt {p : Params} (hp : p.lenW ≤ 64) {n : Nat} (hn : n < 2 ^ p.lenW) :
    (lenHi p n).toNat = n / 2 ^ 32 := by
  have hboth := lenHi_lenLo hp hn
  rw [lenLo_toNat_of_lt hn] at hboth
  omega

/-! ### The digest -/

/-- Under the invariant there is no digest to read while busy, after an error and while `VALID = 0` (R24, R98). -/
theorem State.Inv.digest_eq_zeroDigest {s : State} (hs : s.Inv)
    (h : s.phase ≠ Phase.idle ∨ s.err ≠ 0#4 ∨ s.valid = false) : s.digest = zeroDigest := by
  obtain ⟨hbusy, -, herr, -, -⟩ := hs.status
  obtain hb | he | hv := h
  · exact hs.digest (hbusy hb).2.1
  · exact hs.digest (herr he).2
  · exact hs.digest hv

/-- A byte of `OUT` is a byte of a digest word, shifted down (R101). -/
theorem outByte_eq_shift (digest : Vector Word 5) (k : Nat) (hk : k / 4 < 5) :
    outByte digest k = (digest[k / 4] >>> (24 - 8 * (k % 4))).setWidth 8 := by
  rw [outByte, Vector.getElem?_eq_getElem hk, Option.getD_some]
  ext j hj
  simp

/-! ### Host accesses and micro-steps -/

/-- `m` does not depend on the data returned to the host and does not write them. -/
def KeepsReturned (m : State → Result) : Prop :=
  ∀ s u r, m s = .next u → m (s.giveBack r) = .next (u.giveBack r)

section KeepsReturned

theorem keepsReturned_next {f : State → State} (hf : ∀ s r, f (s.giveBack r) = (f s).giveBack r) :
    KeepsReturned fun s => .next (f s) := by
  rintro s u r h
  cases h
  exact congrArg _ (hf s r)

theorem keepsReturned_whenWritten {b : State → Bool} {m : State → Result} (hb : ∀ s r, b (s.giveBack r) = b s)
    (hm : KeepsReturned m) : KeepsReturned fun s => whenWritten (b s) (m s) := by
  intro s u r h
  obtain ⟨hw, hn⟩ := whenWritten_next.mp h
  exact whenWritten_next.mpr ⟨(hb s r).trans hw, hm s u r hn⟩

theorem keepsReturned_execPad : KeepsReturned execPad := by
  intro s u r h
  unfold execPad at h ⊢
  rw [State.giveBack_mem, State.giveBack_len]
  split at h
  · cases h; rfl
  · cases h

theorem keepsReturned_execCheck : KeepsReturned execCheck := by
  refine keepsReturned_whenWritten (fun _ _ => rfl) fun s u r h => ?_
  split at h
  · next hc => cases h; exact if_pos hc
  · next hc => cases h; exact if_neg hc

theorem readBlock_giveBack (s : State) (r : Returned) : readBlock (s.giveBack r) = readBlock s := rfl

theorem keepsReturned_execLoad : KeepsReturned execLoad := by
  refine keepsReturned_whenWritten (fun _ _ => rfl) fun s u r h => ?_
  rw [readBlock_giveBack]
  split at h
  · cases h; rfl
  · cases h

theorem keepsReturned_execExpand : KeepsReturned execExpand := by
  intro s u r h
  unfold execExpand at h
  split at h
  · next ht =>
    obtain ⟨hw, hn⟩ := whenWritten_next.mp h
    cases hn
    exact (dif_pos ht).trans (whenWritten_next.mpr ⟨hw, rfl⟩)
  · cases h

theorem keepsReturned_roundRow (lo hi : Nat) (f : Word → Word → Word → Word) (k : Word) :
    KeepsReturned (roundRow lo hi f k) := by
  intro s u r h
  unfold roundRow at h
  split at h
  · next ht =>
    obtain ⟨hw, hn⟩ := whenWritten_next.mp h
    cases hn
    exact (if_pos ht).trans (whenWritten_next.mpr ⟨hw, rfl⟩)
  · cases h

theorem State.accumulate_giveBack (s : State) (next : After) (r : Returned) :
    (s.giveBack r).accumulate next = (s.accumulate next).giveBack r := by
  cases next <;> rfl

theorem keepsReturned_execAccum : KeepsReturned execAccum := by
  refine keepsReturned_whenWritten (fun _ _ => rfl) fun s u r h => ?_
  split at h
  · next nx hn => cases h; simp [hn, State.accumulate_giveBack]
  · cases h

/-- The engine neither reads nor writes the data returned to the host (R75, R120). -/
theorem keepsReturned_exec {m : Instr} (hm : m.isMicroStep = true) : KeepsReturned (exec m) := by
  cases m with
  | init => exact keepsReturned_next fun _ _ => rfl
  | pad => exact keepsReturned_execPad
  | check => exact keepsReturned_execCheck
  | load => exact keepsReturned_execLoad
  | expand => exact keepsReturned_execExpand
  | round0019 | round2039 | round4059 | round6079 => exact keepsReturned_roundRow _ _ _ _
  | accum => exact keepsReturned_execAccum
  | serial => exact keepsReturned_whenWritten (fun _ _ => rfl) (keepsReturned_next fun _ _ => rfl)
  | _ => cases hm

end KeepsReturned

/-- From `s` to `u` the engine stays busy, and nothing that a host access reads changes. -/
structure BusyAlike (s u : State) : Prop where
  busy : s.phase ≠ Phase.idle
  stillBusy : u.phase ≠ Phase.idle
  params : u.params = s.params
  mem : u.mem = s.mem
  msgLen : u.msgLen = s.msgLen
  done : u.done = s.done
  valid : u.valid = s.valid
  err : u.err = s.err
  digest : u.digest = s.digest
  returned : u.returned = s.returned

/-- A micro-step that leaves the engine busy writes nothing that a host access reads (R120). -/
theorem MicroEffect.busyAlike {s u : State} {m : Instr} (h : MicroEffect s m u) (hb : s.phase ≠ Phase.idle)
    (hu : u.phase ≠ Phase.idle) : BusyAlike s u := by
  cases h with
  | inconsistent | serial => exact absurd rfl hu
  | accum next => cases next <;> exact ⟨hb, hu, rfl, rfl, rfl, rfl, rfl, rfl, rfl, rfl⟩
  | init | pad | checked | load | expand | round0019 | round2039 | round4059 | round6079 =>
    exact ⟨hb, hu, rfl, rfl, rfl, rfl, rfl, rfl, rfl, rfl⟩

theorem BusyAlike.statusWord {s u : State} (h : BusyAlike s u) : u.statusWord = s.statusWord := by
  have hbusy : u.busy = s.busy := ((State.busy_iff u).mpr h.stillBusy).trans ((State.busy_iff s).mpr h.busy).symm
  rw [State.statusWord, State.statusWord, h.err, h.valid, h.done, hbusy]

/-- While the engine stays busy, `m` keeps its answer: it returns the same data and leaves nothing else. -/
def AnswersAlike (m : State → Result) : Prop :=
  ∀ s u t, BusyAlike s u → m s = .next t → m u = .next (u.giveBack t.returned)

section AnswersAlike

theorem answersAlike_of_ignored {m : State → Result} (hm : ∀ s, s.phase ≠ Phase.idle → m s = .next s) :
    AnswersAlike m := by
  intro s u t h hs
  cases (hm s h.busy).symm.trans hs
  rw [hm u h.stillBusy, ← h.returned]
  rfl

theorem answersAlike_answerWord {f : State → Word} (hf : ∀ s u, BusyAlike s u → f u = f s) :
    AnswersAlike fun s => answerWord (f s) s := by
  intro s u t h hs
  cases hs
  simp [answerWord, hf s u h]

theorem answersAlike_execWrMsg (a : Nat) (b : Byte) : AnswersAlike (execWrMsg a b) := by
  intro s u t h hs
  unfold execWrMsg at hs ⊢
  rw [h.params]
  split at hs
  · next ha =>
    rw [if_pos ha]
    exact answersAlike_of_ignored (m := fun s => whenIdle s (s.setMsgByte a b)) (fun _ => whenIdle_of_busy) s u t h hs
  · cases hs

theorem answersAlike_execRdMsg (a : Nat) : AnswersAlike (execRdMsg a) := by
  intro s u t h hs
  unfold execRdMsg at hs ⊢
  rw [h.params, h.mem]
  split at hs
  · next ha =>
    split at hs
    · cases hs; simp [ha, answerByte]
    · cases hs
  · cases hs

theorem answersAlike_execRdOut (k : Nat) : AnswersAlike (execRdOut k) := by
  intro s u t h hs
  unfold execRdOut at hs ⊢
  rw [h.digest]
  split at hs
  · next hk => cases hs; simp [hk, answerByte]
  · cases hs

/-- Every host access keeps its answer while the engine stays busy (R57, R93 to R102). -/
theorem answersAlike_exec {i : Instr} (hi : i.isMicroStep = false) : AnswersAlike (exec i) := by
  cases i with
  | nop | wrStatus | wrDigest0 | wrDigest1 | wrDigest2 | wrDigest3 | wrDigest4 | wrRsvd =>
    exact answersAlike_of_ignored fun _ _ => rfl
  | start => exact answersAlike_of_ignored fun _ => startCommand_of_busy
  | rsvdOp2 | rsvdOp3 | rsvdOp4 | rsvdOp5 | rsvdOp6 | rsvdOp7 | rsvdOp8 | rsvdOp9 | rsvdOpA | rsvdOpB | rsvdOpC | rsvdOpD
  | rsvdOpE | rsvdOpF => exact answersAlike_of_ignored fun _ => reservedCommand_of_busy
  | wrCtrl v => exact answersAlike_of_ignored fun _ hb => performCommand_of_busy hb v
  | wrMsgLenLo | wrMsgLenHi => exact answersAlike_of_ignored fun _ => whenIdle_of_busy
  | rdCtrl | rdRsvd => exact answersAlike_answerWord fun _ _ _ => rfl
  | rdStatus => exact answersAlike_answerWord fun _ _ h => h.statusWord
  | rdMsgLenLo => exact answersAlike_answerWord fun _ _ h => congrArg₂ lenLo h.params h.msgLen
  | rdMsgLenHi => exact answersAlike_answerWord fun _ _ h => congrArg₂ lenHi h.params h.msgLen
  | rdDigest0 | rdDigest1 | rdDigest2 | rdDigest3 | rdDigest4 =>
    exact answersAlike_answerWord fun _ _ h => by rw [h.digest]
  | wrMsg a b => exact answersAlike_execWrMsg a b
  | rdMsg a => exact answersAlike_execRdMsg a
  | rdOut k => exact answersAlike_execRdOut k
  | init | pad | check | load | expand | round0019 | round2039 | round4059 | round6079 | accum | serial => cases hi

end AnswersAlike

/-! ### The obligations -/

/-- Settles O14: an idle engine compares the length with `MSG_CAP`, and accepts or raises `LENGTH_RANGE`. -/
theorem startBeginsAnOperation : Obligations.StartBeginsAnOperation := fun _ s hi =>
  ⟨fun hl => ⟨s.accept, startCommand_of_le hi hl, s.statusWord_accept, rfl⟩,
    fun hl => ⟨s.raise .lengthRange, startCommand_of_lt hi hl, s.statusWord_raise _, rfl⟩⟩

/-- Settles O15: each of the fourteen is the reserved command, which an idle engine answers with `ILLEGAL_COMMAND`. -/
theorem reservedCommandIsIllegalWhileIdle : Obligations.ReservedCommandIsIllegalWhileIdle := fun _ s _ hi hmem =>
  ⟨s.raise .illegalCommand, (exec_of_mem_reserved hmem s).trans (reservedCommand_of_idle hi), s.statusWord_raise _, rfl⟩

/-- Settles O16: `START` and the reserved command look at `BUSY` first. -/
theorem commandsWhileBusyAreIgnored : Obligations.CommandsWhileBusyAreIgnored := by
  intro r s i hb hmem
  obtain rfl | hmem := List.mem_cons.mp hmem
  · exact startCommand_of_busy hb
  · exact (exec_of_mem_reserved hmem s).trans (reservedCommand_of_busy hb)

/-- Settles O18: the word has its fields where R21 puts them, and a legal status reads as one of six words. -/
theorem readStatusReturnsTheStatusWord : Obligations.ReadStatusReturnsTheStatusWord := fun s =>
  ⟨s.statusWord, rfl, s.getLsbD_statusWord 0, s.getLsbD_statusWord 1, s.getLsbD_statusWord 2, s.getLsbD_statusWord 3,
    s.extractLsb'_statusWord_err, s.extractLsb'_statusWord_high, fun hs => State.statusWord_mem hs.status⟩

/-- Settles O20: an idle engine stores the length with its low part replaced, and a busy one drops the write. -/
theorem writeMsgLenLo : Obligations.WriteMsgLenLo := fun v s =>
  ⟨fun hi hw => ⟨withLenLo s.params s.msgLen v, whenIdle_of_idle hi, withLenLo_of_le hw s.msgLen v⟩,
    fun hi hw => (whenIdle_of_idle hi).trans (by rw [withLenLo_of_lt hw]; rfl), whenIdle_of_busy⟩

/-- Settles O21: an idle engine stores the length with its high part replaced; without a high part that is the length it
had. -/
theorem writeMsgLenHi : Obligations.WriteMsgLenHi := by
  intro v s
  refine ⟨fun hi hw => ⟨withLenHi s.params s.msgLen v, whenIdle_of_idle hi, withLenHi_of_lt hw s.msgLen v⟩,
    fun h => ?_⟩
  by_cases hi : s.phase = Phase.idle
  · have hw : s.params.lenW ≤ 32 := Nat.le_of_not_lt fun hw => h ⟨hi, hw⟩
    exact (whenIdle_of_idle hi).trans (by rw [withLenHi_of_le hw]; rfl)
  · exact whenIdle_of_busy hi

/-- Settles O22: neither part of a length that fits `LEN_W` bits is cut, and the invariant holds `MSG_LEN` to `L`. -/
theorem readMsgLen : Obligations.ReadMsgLen := by
  refine ⟨fun s hp hn => ?_, fun s hs hb => (hs.busyLen hb).1.symm⟩
  obtain ⟨-, hlenW, -, -⟩ := hp
  exact ⟨_, _, rfl, rfl, lenLo_toNat_of_lt hn, lenHi_toNat_of_lt (hlenW.trans (by decide)) hn⟩

/-- Settles O24: the reads return the digest words, which the invariant holds at zero without a digest. -/
theorem readDigest : Obligations.ReadDigest := by
  refine fun s => ⟨rfl, rfl, rfl, rfl, rfl, fun hs h k => ?_⟩
  rw [hs.digest_eq_zeroDigest h]
  simp [zeroDigest]

/-- Settles O25: an idle engine writes the memory, where only the address written reads otherwise. -/
theorem writeMessageByte : Obligations.WriteMessageByte := by
  intro a b s ha
  have hguard : exec (.wrMsg a b) s = whenIdle s (s.setMsgByte a b) := if_pos ha
  exact ⟨fun hi => ⟨s.mem.write a b, hguard.trans (whenIdle_of_idle hi), s.mem.read_write_same a b,
      fun _ ha' => s.mem.read_write_other b ha'⟩,
    fun hb => hguard.trans (whenIdle_of_busy hb)⟩

/-- Settles O27: the byte is cut out of its digest word, which the invariant holds at zero without a digest. -/
theorem readOutputByte : Obligations.ReadOutputByte := by
  intro i s
  refine ⟨outByte s.digest i.val, if_pos i.isLt, outByte_eq_shift _ _ (by omega), fun hs h => ?_⟩
  rw [hs.digest_eq_zeroDigest h, outByte_zeroDigest]

/-- Settles O51: on a busy engine the access leaves only its returned data, which the micro-step neither reads nor writes;
and a micro-step that leaves the engine busy writes nothing that the access reads. -/
theorem hostAccessCommutesWithMicroStep : Obligations.HostAccessCommutesWithMicroStep := by
  intro i m s t u hi hm hb ht hu
  refine ⟨?_, fun hub => ?_⟩
  · rw [(exec_host hi ht).eq_giveBack_of_busy hb]
    exact keepsReturned_exec hm s u _ hu
  · exact answersAlike_exec hi s u t ((exec_micro hm hu).busyAlike hb hub) ht

/-- Settles O13: `NOP` is the state it is run in. -/
theorem nopChangesNothing : Obligations.NopChangesNothing := fun _ _ => rfl

/-- Settles O19: each ignored write is the state it is run in, and the decoder admits no write in the space of `OUT`. -/
theorem accessesWithoutEffect : Obligations.AccessesWithoutEffect := by
  refine ⟨fun v s i hi => ?_, fun _ => rfl, fun _ _ _ => rfl, fun _ _ _ _ _ _ => ⟨rfl, rfl⟩⟩
  simp only [List.mem_cons, List.not_mem_nil, or_false] at hi
  obtain rfl | rfl | rfl | rfl | rfl | rfl := hi <;> rfl

/-- Settles O26: inside the window the written mark alone decides. -/
theorem readMessageByte : Obligations.ReadMessageByte := by
  intro a s ha
  refine ⟨fun b hb => ?_, fun hnone => ?_⟩
  · simp [exec, execRdMsg, ha, hb, answerByte, State.giveBack]
  · simp [exec, execRdMsg, ha, hnone]

end Sys2Proof.Machine
end

section
/-! PROOFS. Family 41_digest_sequencer: the idle engine, `INIT` and `SERIAL`, one block, and a whole operation, alone and under
every schedule (R110 to R120, R130 to R139, R158 to R163). -/

namespace Sys2Proof.Machine

/-! ### The micro-step of a busy engine -/

/-- From `s` the micro-step that `PHASE` and `t` select leaves `t` (R77, R110). -/
def MicroStep (s t : State) : Prop :=
  ∃ i, decodePhase s.phase s.t = .ok i ∧ exec i s = .next t

/-- A micro-step selected by a known `PHASE`. -/
theorem microStep_of_phase {s t : State} {c : BitVec 4} {i : Instr} (hp : s.phase = c)
    (hd : decodePhase c s.t = .ok i) (h : exec i s = .next t) : MicroStep s t :=
  ⟨i, hp ▸ hd, h⟩

/-- With nothing scheduled, the engine takes its micro-step. -/
theorem MicroStep.step {s t : State} (h : MicroStep s t) (hs : s.inbox = []) : step s = .next t := by
  obtain ⟨i, hd, he⟩ := h
  exact (step_engine hs hd).trans he

/-- A scheduled engine turn is the micro-step. -/
theorem MicroStep.step_turn {s t : State} {rest : List Event} (h : MicroStep (s.setInbox rest) t)
    (hs : s.inbox = .engine :: rest) : Machine.step s = .next t := by
  obtain ⟨i, hd, he⟩ := h
  exact (step_engine_turn hs hd).trans he

theorem State.accumulate_inbox (s : State) (next : After) : (s.accumulate next).inbox = s.inbox := by
  cases next <;> rfl

/-- The engine leaves the schedule alone. -/
theorem MicroEffect.inbox {s t : State} {i : Instr} (h : MicroEffect s i t) : t.inbox = s.inbox := by
  cases h with
  | accum next => exact s.accumulate_inbox next
  | init | pad | checked | inconsistent | load | expand | round0019 | round2039 | round4059 | round6079 | serial => rfl

theorem MicroStep.inbox {s t : State} (h : MicroStep s t) : t.inbox = s.inbox := by
  obtain ⟨i, hd, he⟩ := h
  exact (exec_micro (decodePhase_micro hd) he).inbox

/-- A run of one step more is a run from the state after the first. -/
theorem run_succ {n : Nat} {s t : State} (h : step s = .next t) :
    Host.Core.run core (n + 1) s = Host.Core.run core n t := by
  rw [Nat.add_comm]; exact run_add (run_one h)

/-- A run that completes completes its first step. -/
theorem run_succ_next {n : Nat} {s u : State} (h : Host.Core.run core (n + 1) s = .next u) :
    ∃ t, step s = .next t ∧ Host.Core.run core n t = .next u := by
  cases hs : step s with
  | next t => exact ⟨t, rfl, (run_succ hs).symm.trans h⟩
  | fault f =>
    have hs' : core.step s = .fault f := hs
    simp [Host.Core.run, hs'] at h
  | refused r =>
    have hs' : core.step s = .refused r := hs
    simp [Host.Core.run, hs'] at h

/-- A family of facts that each micro-step carries from its count to the next holds along a run of the engine alone. -/
theorem run_of_microSteps {P : Nat → State → Prop} {total : Nat}
    (hP : ∀ k u, k < total → P k u → ∃ v, MicroStep u v ∧ P (k + 1) v) {s : State} (h0 : P 0 s) (hs : s.inbox = [])
    {n : Nat} (hn : n ≤ total) : ∃ t, Host.Core.run core n s = .next t ∧ t.inbox = [] ∧ P n t := by
  induction n with
  | zero => exact ⟨s, rfl, hs, h0⟩
  | succ n ih =>
    obtain ⟨u, hrun, hu, hPu⟩ := ih (Nat.le_of_succ_le hn)
    obtain ⟨v, hv, hPv⟩ := hP n u hn hPu
    exact ⟨v, (run_add hrun).trans (run_one (hv.step hu)), hv.inbox.trans hu, hPv⟩

/-! ### The idle engine -/

/-- An idle engine has no micro-step: the fetch finds the state as it is (R76, R110). -/
theorem fetchMicroStep_of_idle {s : State} (hi : s.phase = Phase.idle) : fetchMicroStep s = .settled s := by
  simp [fetchMicroStep, fetchCode, decode, hi, decodePhase]

theorem step_of_idle {s : State} (hi : s.phase = Phase.idle) (hs : s.inbox = []) : step s = .next s := by
  simp [step, fetch, hs, fetchMicroStep_of_idle hi]

theorem step_turn_of_idle {s : State} {rest : List Event} (hi : s.phase = Phase.idle) (hs : s.inbox = .engine :: rest) :
    step s = .next (s.setInbox rest) := by
  have hf : fetchMicroStep (s.setInbox rest) = .settled (s.setInbox rest) := fetchMicroStep_of_idle hi
  simp [step, fetch, hs, fetchEvent, hf]

/-! ### Unwritten bytes of `MSG` -/

/-- An item unwritten since reset is another fault than an unwritten byte of `MSG` (R188). -/
theorem whenWritten_next_ne_unwrittenMsgRead (b : Bool) (t : State) :
    whenWritten b (.next t) ≠ .fault .unwrittenMsgRead := by
  cases b <;> nofun

theorem roundRow_ne_unwrittenMsgRead (lo hi : Nat) (f : Word → Word → Word → Word) (k : Word) (s : State) :
    roundRow lo hi f k s ≠ .fault .unwrittenMsgRead := by
  unfold roundRow
  split
  · exact whenWritten_next_ne_unwrittenMsgRead _ _
  · nofun

/-- Of the micro-steps only `PAD` and `LOAD` read `MSG`, the tail and the selected block (R133, R158). -/
theorem exec_micro_unwrittenMsgRead {i : Instr} {s : State} (hi : i.isMicroStep = true)
    (h : exec i s = .fault .unwrittenMsgRead) :
    (i = .pad ∧ s.mem.readBytes (fullEnd s.len) (tailLen s.len) = none) ∨
      (i = .load ∧ readBlock s = .error .unwrittenMsgRead) := by
  cases i with
  | init => cases h
  | pad =>
    replace h : execPad s = _ := h
    unfold execPad at h
    split at h
    · cases h
    · next hnone => exact .inl ⟨rfl, hnone⟩
  | check =>
    obtain ⟨-, hf⟩ | ⟨-, h⟩ := whenWritten_fault.mp h
    · cases hf
    · split at h <;> cases h
  | load =>
    obtain ⟨-, hf⟩ | ⟨-, h⟩ := whenWritten_fault.mp h
    · cases hf
    · split at h
      · cases h
      · next hf => cases h; exact .inr ⟨rfl, hf⟩
  | expand =>
    replace h : execExpand s = _ := h
    unfold execExpand at h
    split at h
    · exact absurd h (whenWritten_next_ne_unwrittenMsgRead _ _)
    · cases h
  | round0019 | round2039 | round4059 | round6079 => exact absurd h (roundRow_ne_unwrittenMsgRead _ _ _ _ s)
  | accum =>
    obtain ⟨-, hf⟩ | ⟨-, h⟩ := whenWritten_fault.mp h
    · cases hf
    · split at h <;> cases h
  | serial => exact absurd h (whenWritten_next_ne_unwrittenMsgRead _ _)
  | _ => cases hi

/-- Reading the selected block meets an unwritten byte in `MSG` only (R158). -/
theorem readBlock_unwrittenMsgRead {s : State} (h : readBlock s = .error .unwrittenMsgRead) :
    s.block.src = .msg ∧ s.mem.readBytes s.block.off 64 = none := by
  unfold readBlock at h
  split at h
  · next hs =>
    split at h
    · cases h
    · next hnone => exact ⟨hs, hnone⟩
  · split at h
    · split at h <;> cases h
    · cases h

/-- A run of bytes inside a written message is read whole. -/
theorem Memory.readBytes_ne_none_of_written {m : Memory} {a n len : Nat} (h : ∀ k, k < len → m.read k ≠ none)
    (hle : a + n ≤ len) : m.readBytes a n ≠ none := by
  intro hnone
  obtain ⟨k, hk, hread⟩ := Memory.readBytes_eq_none.mp hnone
  exact h _ (by omega) hread

/-- `F` and `T` are the two parts of the length (R130). -/
theorem fullEnd_add_tailLen (len : Nat) : fullEnd len + tailLen len = len :=
  Nat.add_sub_cancel' (fullEnd_le len)

/-- Under the invariant the selected micro-step completes once the message has been written (R119). -/
theorem State.Inv.exec_micro_of_written {s : State} {i : Instr} (hs : s.Inv)
    (hm : ∀ a, a < s.len → s.mem.read a ≠ none) (hd : decodePhase s.phase s.t = .ok i) : ∃ t, exec i s = .next t := by
  refine (hs.exec_micro_total hd).resolve_right fun hf => ?_
  obtain ⟨-, hnone⟩ | ⟨rfl, hblk⟩ := exec_micro_unwrittenMsgRead (decodePhase_micro hd) hf
  · exact Memory.readBytes_ne_none_of_written hm (fullEnd_add_tailLen s.len).le hnone
  · obtain ⟨hsrc, hnone⟩ := readBlock_unwrittenMsgRead hblk
    obtain ⟨⟨-, -, -, hplan⟩, -, hfit⟩ := (State.sequenced_iff_of_load (decodePhase_phase hd)).mp hs.sequenced
    obtain ⟨-, -, hle⟩ | ⟨hscr, -⟩ := hfit
    · rw [hplan] at hle
      exact Memory.readBytes_ne_none_of_written hm (hle.trans (fullEnd_le s.len)) hnone
    · cases hsrc.symm.trans hscr

/-! ### The schedule and the rounds of a block -/

/-- Word `j` of the schedule of the block `x` (R162). -/
def scheduleWord (x : List Byte) (j : Nat) : Word := (scheduleOf x 80).getD j 0#32

@[simp] theorem scheduleOf_length (x : List Byte) (n : Nat) : (scheduleOf x n).length = n := by
  induction n with
  | zero => rfl
  | succ n ih => simp [scheduleOf, ih]

/-- A longer part of the schedule keeps the words of a shorter one. -/
theorem scheduleOf_getD_of_le (x : List Byte) {n n' j : Nat} (hj : j < n) (hn : n ≤ n') :
    (scheduleOf x n').getD j 0#32 = (scheduleOf x n).getD j 0#32 := by
  induction n', hn using Nat.le_induction with
  | base => rfl
  | succ n' hn ih =>
    rw [← ih, scheduleOf, List.getD_append _ _ _ _ (by rw [scheduleOf_length]; omega)]

/-- The words that `LOAD` reads (R158, R162). -/
theorem scheduleWord_of_lt (x : List Byte) {j : Nat} (hj : j < 16) : scheduleWord x j = blockWord x j := by
  rw [scheduleWord, scheduleOf_getD_of_le x (Nat.lt_succ_self j) (by omega), scheduleOf,
    List.getD_append_right _ _ _ _ (by simp)]
  simp [hj]

/-- The words that `EXPAND` computes (R159, R162). -/
theorem scheduleWord_of_ge (x : List Byte) {j : Nat} (hlo : 16 ≤ j) (hhi : j < 80) :
    scheduleWord x j =
      rotl (scheduleWord x (j - 3) ^^^ scheduleWord x (j - 8) ^^^ scheduleWord x (j - 14) ^^^ scheduleWord x (j - 16)) 1 := by
  have hword (d : Nat) (hd : 3 ≤ d) : (scheduleOf x j).getD (j - d) 0#32 = scheduleWord x (j - d) :=
    (scheduleOf_getD_of_le x (by omega) hhi.le).symm
  rw [scheduleWord, scheduleOf_getD_of_le x (Nat.lt_succ_self j) hhi, scheduleOf,
    List.getD_append_right _ _ _ _ (by simp)]
  simp only [scheduleOf_length, Nat.sub_self, if_neg (Nat.not_lt.mpr hlo), List.getD_cons_zero]
  rw [hword _ (by omega), hword _ (by omega), hword _ (by omega), hword _ (by omega)]

/-- The working registers after the first `n` rounds over the block `x`, from the accumulator `h` (R162). -/
def workingAfter (h : Vector Word 5) (x : List Byte) (n : Nat) : Working := roundsOf (scheduleOf x 80) (seedWorking h) n

/-- One more round is the assignment of R160, with the function, the constant and the schedule word of its index. -/
theorem workingAfter_succ (h : Vector Word 5) (x : List Byte) (n : Nat) :
    workingAfter h x (n + 1) =
      roundOf (workingAfter h x n)
        (roundFunction n (workingAfter h x n).b (workingAfter h x n).c (workingAfter h x n).d)
        (roundConstant n) (scheduleWord x n) := rfl

theorem compress_eq (h : Vector Word 5) (x : List Byte) : compress h x = addWorking h (workingAfter h x 80) := rfl

/-- The row that `t` selects performs the round of R157's function and constant. -/
theorem microStep_round {s : State} (hp : s.phase = Phase.round) (hr : s.marks.regs = true) (hle : s.t.toNat ≤ 79)
    (hw : s.wordsWritten 80) :
    MicroStep s (s.applyRound (roundFunction s.t.toNat s.regs.b s.regs.c s.regs.d) (roundConstant s.t.toNat)) := by
  have hword : s.wordWritten s.t.toNat = true := State.wordWritten_of_wordsWritten hw (by omega) (by omega)
  unfold roundFunction roundConstant
  split_ifs with h1 h2 h3
  · exact microStep_of_phase hp (decodeRound_0019 h1) (roundRow_eq (Nat.zero_le _) h1 hr hword)
  · exact microStep_of_phase hp (decodeRound_2039 (by omega) h2) (roundRow_eq (by omega) h2 hr hword)
  · exact microStep_of_phase hp (decodeRound_4059 (by omega) h3) (roundRow_eq (by omega) h3 hr hword)
  · exact microStep_of_phase hp (decodeRound_6079 (by omega) hle) (roundRow_eq (by omega) hle hr hword)

/-! ### The micro-steps of one block -/

/-- What the micro-steps of a block leave alone until `ACCUM`. -/
def State.blockInputs (s : State) :
    Memory × Nat × Plan × Block × Vector Byte 128 × Vector Word 5 × Bool × Bool × Bool × Bool :=
  (s.mem, s.len, s.plan, s.block, s.scr, s.h, s.marks.h, s.marks.plan, s.marks.block, s.marks.scr)

theorem State.blockInputs_eq_iff {s t : State} : t.blockInputs = s.blockInputs ↔
    t.mem = s.mem ∧ t.len = s.len ∧ t.plan = s.plan ∧ t.block = s.block ∧ t.scr = s.scr ∧ t.h = s.h ∧
      t.marks.h = s.marks.h ∧ t.marks.plan = s.marks.plan ∧ t.marks.block = s.marks.block ∧
      t.marks.scr = s.marks.scr := by
  simp [State.blockInputs]

/-- A selected block stays selected while its inputs do not change. -/
theorem State.onBlock_of_blockInputs_eq {s t : State} (h : t.blockInputs = s.blockInputs) (hs : s.onBlock) :
    t.onBlock := by
  obtain ⟨-, hlen, hplan, hblock, -, -, hmh, hmp, hmb, hms⟩ := State.blockInputs_eq_iff.mp h
  rw [State.onBlock, State.planned, hmh, hmp, hms, hplan, hlen, hmb, hblock]
  exact hs

/-- The first `n` words of the schedule are written, and are those of the block `x`. -/
def State.holdsSchedule (s : State) (x : List Byte) (n : Nat) : Prop :=
  s.wordsWritten n ∧ ∀ j, j < n → wordAt s.w j = scheduleWord x j

/-- The state stands `k` micro-steps into the block `x`: at `LOAD`, at one of 64 `EXPAND`, at one of 80 `ROUND`, or at `ACCUM`
(R113, R162). -/
inductive BlockStage (x : List Byte) : Nat → State → Prop where
  | load {s : State} : s.phase = Phase.load → readBlock s = .ok x → BlockStage x 0 s
  | expand {s : State} {k : Nat} : s.phase = Phase.expand → 16 ≤ s.t.toNat → s.t.toNat ≤ 79 → k = s.t.toNat - 15 →
      s.marks.regs = true → s.holdsSchedule x s.t.toNat → s.regs = workingAfter s.h x 0 → BlockStage x k s
  | round {s : State} {k : Nat} : s.phase = Phase.round → s.t.toNat ≤ 79 → k = 65 + s.t.toNat →
      s.marks.regs = true → s.holdsSchedule x 80 → s.regs = workingAfter s.h x s.t.toNat → BlockStage x k s
  | accum {s : State} : s.phase = Phase.accum → s.marks.regs = true → s.regs = workingAfter s.h x 80 →
      BlockStage x 145 s

/-- `LOAD` writes the first sixteen words (R158). -/
theorem State.holdsSchedule_seedBlock (s : State) (x : List Byte) : (s.seedBlock x).holdsSchedule x 16 := by
  refine ⟨fun j hj => by simpa using .inl hj, fun j hj => ?_⟩
  have h80 : j < 80 := by omega
  simp [wordAt, loadWords, h80, hj, scheduleWord_of_lt x hj]

/-- The word that `EXPAND` computes over the words of a block is the next word of that block (R159). -/
theorem State.holdsSchedule.expandedWord_eq {s : State} {x : List Byte} {k : Nat} (h : s.holdsSchedule x k)
    (hlo : 16 ≤ k) (hhi : k < 80) : expandedWord s.w k = scheduleWord x k := by
  obtain ⟨-, hword⟩ := h
  rw [expandedWord, hword _ (by omega), hword _ (by omega), hword _ (by omega), hword _ (by omega),
    scheduleWord_of_ge x hlo hhi]

/-- `EXPAND` writes one more word (R159). -/
theorem State.holdsSchedule.expandAt {s : State} {x : List Byte} {k : Nat} (h : s.holdsSchedule x k)
    (hlo : 16 ≤ k) (hhi : k < 80) : (s.expandAt k hhi).holdsSchedule x (k + 1) := by
  have hnew := h.expandedWord_eq hlo hhi
  obtain ⟨hwritten, hword⟩ := h
  refine ⟨State.wordsWritten_expandAt hhi hwritten, fun j hj => ?_⟩
  rw [State.expandAt_w, wordAt, Vector.getElem?_set]
  obtain hlt | rfl := Nat.lt_succ_iff_lt_or_eq.mp hj
  · rw [if_neg hlt.ne']; exact hword j hlt
  · simpa using hnew

/-- `LOAD` reads the selected block and goes to the first `EXPAND` (R158). -/
theorem microStep_load {s : State} {x : List Byte} (hb : s.onBlock) (hp : s.phase = Phase.load)
    (hx : readBlock s = .ok x) : MicroStep s (s.seedBlock x) := by
  obtain ⟨⟨hh, -⟩, hmb, -⟩ := hb
  exact microStep_of_phase hp rfl (by simp [exec, execLoad, hh, hmb, hx])

/-- `EXPAND` leads to the next word, and after word 79 to the first `ROUND` (R159). -/
theorem BlockStage.expandAt {x : List Byte} {s : State} (hp : s.phase = Phase.expand) (hlo : 16 ≤ s.t.toNat)
    (hhi : s.t.toNat < 80) (hr : s.marks.regs = true) (hw : s.holdsSchedule x s.t.toNat)
    (hregs : s.regs = workingAfter s.h x 0) :
    BlockStage x (s.t.toNat - 15 + 1) (s.expandAt s.t.toNat hhi) := by
  have hw' := hw.expandAt hlo hhi
  by_cases hlast : s.t.toNat = 79
  · have ht : (s.expandAt s.t.toNat hhi).t.toNat = 0 := by simp [hlast]
    refine .round (by simp [hlast]) (by omega) (by omega) hr (by simpa only [hlast] using hw') ?_
    rw [ht]; exact hregs
  · have ht : (s.expandAt s.t.toNat hhi).t.toNat = s.t.toNat + 1 := by
      rw [State.expandAt_t, if_neg hlast, toNat_succ_of_le (by omega)]
    exact .expand (by simp [hlast, hp]) (by omega) (by omega) (by omega) hr (by rw [ht]; exact hw') hregs

/-- A `ROUND` leads to the next one, and after round 79 to `ACCUM` (R160, R163). The function value and the constant stand as
variables, so that the kernel unfolds no constant. -/
theorem BlockStage.applyRound {x : List Byte} {s : State} {f c : Word} (hp : s.phase = Phase.round)
    (hle : s.t.toNat ≤ 79) (hr : s.marks.regs = true) (hw : s.holdsSchedule x 80)
    (hregs : s.regs = workingAfter s.h x s.t.toNat) (hf : f = roundFunction s.t.toNat s.regs.b s.regs.c s.regs.d)
    (hc : c = roundConstant s.t.toNat) : BlockStage x (65 + s.t.toNat + 1) (s.applyRound f c) := by
  have hregs' : (s.applyRound f c).regs = workingAfter s.h x (s.t.toNat + 1) := by
    rw [State.applyRound_regs, workingAfter_succ, ← hregs, hw.2 _ (by omega), hf, hc]
  by_cases hlast : s.t.toNat = 79
  · rw [hlast] at hregs' ⊢
    exact .accum (by simp [hlast]) hr hregs'
  · have ht : (s.applyRound f c).t.toNat = s.t.toNat + 1 := toNat_succ_of_le hle
    exact .round (by simp [hlast, hp]) (by omega) (by omega) hr hw (by rw [ht]; exact hregs')

/-- Before `ACCUM` each micro-step of a block leads one further into it and leaves its inputs alone. -/
theorem BlockStage.next {x : List Byte} {k : Nat} {s : State} (h : BlockStage x k s) (hb : s.onBlock) (hk : k < 145) :
    ∃ t, MicroStep s t ∧ t.blockInputs = s.blockInputs ∧ BlockStage x (k + 1) t := by
  cases h with
  | load hp hx =>
    exact ⟨_, microStep_load hb hp hx, rfl,
      .expand rfl (by simp) (by simp) rfl rfl (s.holdsSchedule_seedBlock x) rfl⟩
  | expand hp hlo hhi hk hr hw hregs =>
    subst hk
    have h80 : s.t.toNat < 80 := by omega
    exact ⟨_, microStep_of_phase hp (decodePhase_expand hlo hhi) (execExpand_eq hlo h80 hw.1), rfl,
      .expandAt hp hlo h80 hr hw hregs⟩
  | round hp hle hk hr hw hregs =>
    subst hk
    exact ⟨_, microStep_round hp hr hle hw.1, rfl, .applyRound hp hle hr hw hregs rfl rfl⟩
  | accum => exact absurd hk (Nat.lt_irrefl 145)

/-- `ACCUM` leaves `COMPRESS` of the accumulator and the block in the accumulator, and goes where R115 sends it (R161, R162). -/
theorem BlockStage.microStep_accum {x : List Byte} {s : State} (h : BlockStage x 145 s) (hb : s.onBlock) {next : After}
    (hn : nextBlock s.plan s.block = some next) :
    MicroStep s (s.accumulate next) ∧ (s.accumulate next).h = compress s.h x := by
  obtain ⟨⟨hh, hpl, -⟩, hmb, -⟩ := hb
  cases h with
  | expand _ _ _ hk => omega
  | round _ _ hk => omega
  | accum hp hr hregs =>
    have hsum : addWorking s.h s.regs = compress s.h x := by rw [compress_eq, hregs]
    exact ⟨microStep_of_phase hp rfl (execAccum_eq hh hr hmb hpl hn), by cases next <;> exact hsum⟩

/-- A selected block has a next selection (R115). -/
theorem State.onBlock.exists_nextBlock {s : State} (hb : s.onBlock) : ∃ next, nextBlock s.plan s.block = some next := by
  obtain ⟨⟨-, -, -, hplan⟩, -, hfit⟩ := hb
  rw [hplan] at hfit ⊢
  obtain hn | ⟨b, hn, -⟩ := nextBlock_of_fits hfit
  · exact ⟨_, hn⟩
  · exact ⟨_, hn⟩

/-- The engine alone comes from `LOAD` to each stage of the block in as many steps. -/
theorem run_block {s : State} {x : List Byte} (hs : s.inbox = []) (hb : s.onBlock) (h : BlockStage x 0 s) {k : Nat}
    (hk : k ≤ 145) :
    ∃ t, Host.Core.run core k s = .next t ∧ t.inbox = [] ∧ t.blockInputs = s.blockInputs ∧ BlockStage x k t := by
  refine run_of_microSteps (P := fun k t => t.blockInputs = s.blockInputs ∧ BlockStage x k t) (fun k u hk hu => ?_)
    ⟨rfl, h⟩ hs hk
  obtain ⟨hin, hstage⟩ := hu
  obtain ⟨v, hv, hin', hstage'⟩ := hstage.next (State.onBlock_of_blockInputs_eq hin hb) hk
  exact ⟨v, hv, hin'.trans hin, hstage'⟩

/-! ### The published digest -/

/-- After `SERIAL` the status shows `DONE` and `VALID` (R116). -/
theorem State.statusWord_of_published {s : State} (hi : s.phase = Phase.idle) (hd : s.done = true) (hv : s.valid = true)
    (he : s.err = 0#4) : s.statusWord = 0x00000006#32 := by
  rw [State.statusWord_of_idle hi, hd, hv, he]; decide

/-! ### The padded message -/

/-- `P` is one block or two (R131). -/
theorem paddedSize_cases (len : Nat) :
    (paddedSize len = 64 ∧ tailLen len ≤ 55) ∨ (paddedSize len = 128 ∧ 55 < tailLen len ∧ tailLen len < 64) := by
  rw [paddedSize_eq, tailLen_eq]
  split <;> omega

/-- The bulk region and the padded region are the blocks that R118 counts. -/
theorem fullEnd_add_paddedSize (len : Nat) : fullEnd len + paddedSize len = 64 * blockCount len := by
  rw [paddedSize_eq, fullEnd, blockCount]
  split <;> omega

/-- The plan of `PAD` is consistent, for every length (R136, R138). -/
theorem consistent_planOf (len : Nat) :
    Consistent len (planOf len).f (planOf len).t.toNat (planOf len).p.toNat := by
  have hmod := fullEnd_mod len
  have hall := fullEnd_add_tailLen len
  have ht := tailLen_eq len
  have hp := paddedSize_cases len
  rw [planOf_f, planOf_t, planOf_p, ← ht]
  refine ⟨hmod, hall, ?_, ?_, ?_, ?_, ?_⟩ <;> omega

/-- The padded region is the tail, the marker, the zeros and the bit length (R133 to R135). -/
theorem take_scratchOf {len : Nat} {tail : List Byte} (ht : tail.length = tailLen len) :
    (scratchOf len tail).toList.take (paddedSize len) =
      tail ++ ([0x80#8] ++ (List.replicate (paddedSize len - tailLen len - 9) 0x00#8 ++ bytesBe (bitLength len) 8)) := by
  have hp := paddedSize_cases len
  refine List.ext_getElem ?_ fun i hi hi' => ?_
  · simp [ht]; omega
  · have hi : i < paddedSize len := by simp at hi; omega
    have hbyte : ((scratchOf len tail).toList.take (paddedSize len))[i] = scratchByte len tail i := by
      simp [scratchOf]
    rw [hbyte, scratchByte]
    by_cases htail : i < tailLen len
    · rw [if_pos htail, List.getElem_append_left (ht ▸ htail), List.getD_eq_getElem _ _ (ht ▸ htail)]
    rw [if_neg htail, List.getElem_append_right (by omega)]
    by_cases hmark : i = tailLen len
    · rw [if_pos hmark, List.getElem_append_left (by simp; omega), List.getElem_singleton]
    rw [if_neg hmark, List.getElem_append_right (by simp; omega)]
    by_cases hzero : i < paddedSize len - 8
    · rw [if_pos hzero, List.getElem_append_left (by simp; omega), List.getElem_replicate]
    · rw [if_neg hzero, if_pos hi, List.getElem_append_right (by simp; omega), List.getD_eq_getElem _ _ (by simp; omega)]
      congr 1
      simp; omega

/-- The padded message is the bulk region followed by the padded region (R117, R139). -/
theorem padMessage_eq (m : List Byte) :
    padMessage m =
      m.take (fullEnd m.length) ++
        (scratchOf m.length (m.drop (fullEnd m.length))).toList.take (paddedSize m.length) := by
  have ht : (m.drop (fullEnd m.length)).length = tailLen m.length := List.length_drop
  rw [take_scratchOf ht, ← List.append_assoc, List.take_append_drop, padMessage, ← paddedSize_eq, ← tailLen_eq, bitLength]
  simp

theorem padMessage_length (m : List Byte) : (padMessage m).length = 64 * blockCount m.length := by
  have hfull := fullEnd_le m.length
  have hp := paddedSize_cases m.length
  rw [padMessage_eq, ← fullEnd_add_paddedSize]
  simp; omega

/-- The digest is the accumulator after every block of the padded message (R117). -/
theorem digestWords_eq (m : List Byte) :
    digestWords m = accumulatorAfter (padMessage m) (blockCount m.length) := by
  rw [digestWords, padMessage_length, Nat.mul_div_cancel_left _ (by decide)]

/-- A block of the bulk region is a part of the message (R114, R117). -/
theorem blockOf_padMessage_bulk {m : List Byte} {i : Nat} (hi : 64 * i < fullEnd m.length) :
    blockOf (padMessage m) i = (m.drop (64 * i)).take 64 := by
  have hfull := fullEnd_le m.length
  have hmod := fullEnd_mod m.length
  rw [padMessage_eq, blockOf, List.drop_append_of_le_length (by simp; omega), List.drop_take,
    List.take_append_of_le_length (by simp; omega), List.take_take, Nat.min_eq_left (by omega)]

/-- A block of the padded region is a part of `SCR` (R115, R117). -/
theorem blockOf_padMessage_region {m : List Byte} {i : Nat} (hlo : fullEnd m.length ≤ 64 * i)
    (hhi : i < blockCount m.length) :
    blockOf (padMessage m) i =
      ((scratchOf m.length (m.drop (fullEnd m.length))).toList.drop (64 * i - fullEnd m.length)).take 64 := by
  have hfull := fullEnd_le m.length
  have hmod := fullEnd_mod m.length
  have hall := fullEnd_add_paddedSize m.length
  have htake : (m.take (fullEnd m.length)).length = fullEnd m.length := by simp [hfull]
  rw [padMessage_eq, blockOf, List.drop_append, List.drop_eq_nil_of_le (by omega), List.nil_append, htake, List.drop_take,
    List.take_take, Nat.min_eq_left (by omega)]

/-! ### The blocks of an operation, in order -/

/-- The selection of block `i` of an operation on `len` bytes: the full blocks of `MSG`, then the padded region (R113 to
R115). -/
def nthBlock (len i : Nat) : Block :=
  if 64 * i < fullEnd len then ⟨.msg, 64 * i⟩ else ⟨.scr, 64 * i - fullEnd len⟩

theorem nthBlock_bulk {len i : Nat} (h : 64 * i < fullEnd len) : nthBlock len i = ⟨.msg, 64 * i⟩ := if_pos h

theorem nthBlock_region {len i : Nat} (h : fullEnd len ≤ 64 * i) : nthBlock len i = ⟨.scr, 64 * i - fullEnd len⟩ :=
  if_neg (Nat.not_lt.mpr h)

theorem planOf_p_eq (len : Nat) : (planOf len).p = BitVec.ofNat 8 (paddedSize len) := rfl

/-- `CHECK` selects block 0 (R114). -/
theorem firstBlock_eq_nthBlock (len : Nat) : firstBlock (planOf len).f = nthBlock len 0 := by
  rw [firstBlock, nthBlock, Nat.mul_zero, Nat.zero_sub]; rfl

/-- The blocks an operation counts fit its plan. -/
theorem nthBlock_fits {len i : Nat} (h : i < blockCount len) : (nthBlock len i).fits (planOf len) := by
  have hmod := fullEnd_mod len
  have hall := fullEnd_add_paddedSize len
  obtain hbulk | hregion := Nat.lt_or_ge (64 * i) (fullEnd len)
  · rw [nthBlock_bulk hbulk]
    exact .inl ⟨rfl, Nat.mul_mod_right .., by rw [planOf_f]; dsimp only; omega⟩
  · rw [nthBlock_region hregion]
    refine .inr ⟨rfl, ?_⟩
    obtain ⟨hp, -⟩ | ⟨hp, -⟩ := paddedSize_cases len
    · exact .inl (by dsimp only; omega)
    · have hoff : 64 * i - fullEnd len = 0 ∨ 64 * i - fullEnd len = 64 := by omega
      exact hoff.imp_right fun h64 => ⟨h64, by rw [planOf_p_eq, hp]⟩

/-- `ACCUM` selects the next block while one is left (R115). -/
theorem nextBlock_nthBlock {len i : Nat} (h : i + 1 < blockCount len) :
    nextBlock (planOf len) (nthBlock len i) = some (.block (nthBlock len (i + 1))) := by
  have hmod := fullEnd_mod len
  have hall := fullEnd_add_paddedSize len
  have hp := paddedSize_cases len
  obtain hbulk | hregion := Nat.lt_or_ge (64 * i) (fullEnd len)
  · rw [nthBlock_bulk hbulk]
    obtain hlt | heq := Nat.lt_or_eq_of_le (show 64 * i + 64 ≤ fullEnd len by omega)
    · rw [nthBlock_bulk (i := i + 1) (by omega)]
      exact nextBlock_msg_of_lt rfl hlt
    · rw [nthBlock_region (i := i + 1) (by omega), show 64 * (i + 1) - fullEnd len = 0 by omega]
      exact nextBlock_msg_of_eq rfl heq
  · have hlong : paddedSize len = 128 := by omega
    rw [nthBlock_region hregion, nthBlock_region (by omega), show 64 * i - fullEnd len = 0 by omega,
      show 64 * (i + 1) - fullEnd len = 64 by omega]
    exact nextBlock_scr_first_long (by rw [planOf_p_eq, hlong])

/-- After the last block `ACCUM` ends the compression (R115). -/
theorem nextBlock_nthBlock_last {len i : Nat} (h : i + 1 = blockCount len) :
    nextBlock (planOf len) (nthBlock len i) = some .finished := by
  have hall := fullEnd_add_paddedSize len
  obtain ⟨hp, -⟩ | ⟨hp, -⟩ := paddedSize_cases len
  · rw [nthBlock_region (by omega), show 64 * i - fullEnd len = 0 by omega]
    exact nextBlock_scr_first_short (by rw [planOf_p_eq, hp])
  · rw [nthBlock_region (by omega), show 64 * i - fullEnd len = 64 by omega]
    exact nextBlock_scr_second _

/-! ### A whole operation -/

/-- From `CHECK` on: the message `m` stands in the memory `mem`, and the plan and the padded region are those of `m`. -/
structure State.PreparedFor (mem : Memory) (m : List Byte) (s : State) : Prop where
  mem : s.mem = mem
  len : s.len = m.length
  planned : s.planned
  scr : s.scr = scratchOf m.length (m.drop (fullEnd m.length))

/-- The engine stands before block `i` of the message, or inside it: the block is selected, and the accumulator is the one after
the blocks before it. -/
structure State.OnBlockOf (mem : Memory) (m : List Byte) (i : Nat) (s : State) : Prop extends s.PreparedFor mem m where
  inRange : i < blockCount m.length
  markBlock : s.marks.block = true
  block : s.block = nthBlock m.length i
  h : s.h = accumulatorAfter (padMessage m) i

/-- The state stands `n` micro-steps after an accepted `START` over the message `m` held in `mem`, with what has been computed by
then (R111 to R118). -/
inductive OperationAt (mem : Memory) (m : List Byte) : Nat → State → Prop where
  | init {s : State} : s.phase = Phase.init → s.mem = mem → s.len = m.length → OperationAt mem m 0 s
  | pad {s : State} : s.phase = Phase.pad → s.mem = mem → s.len = m.length → s.marks.h = true → s.h = initialH →
      OperationAt mem m 1 s
  | check {s : State} : s.phase = Phase.check → s.PreparedFor mem m → s.h = initialH → OperationAt mem m 2 s
  | block {s : State} {n : Nat} (i k : Nat) : n = 3 + 146 * i + k → k ≤ 145 → s.OnBlockOf mem m i →
      BlockStage (blockOf (padMessage m) i) k s → OperationAt mem m n s
  | serial {s : State} {n : Nat} : n = 3 + 146 * blockCount m.length → s.phase = Phase.serial → s.mem = mem →
      s.marks.h = true → s.h = digestWords m → OperationAt mem m n s
  | ended {s : State} {n : Nat} : n = 4 + 146 * blockCount m.length → s.phase = Phase.idle → s.mem = mem →
      s.done = true → s.valid = true → s.err = 0#4 → s.digest = digestWords m → OperationAt mem m n s

section Operation
variable {mem : Memory} {m : List Byte} {s : State} {n : Nat}

/-- The predicate looks neither at the schedule nor at the data returned to the host. -/
theorem BlockStage.setInbox_giveBack {x : List Byte} {k : Nat} (h : BlockStage x k s) (es : List Event) (r : Returned) :
    BlockStage x k ((s.setInbox es).giveBack r) := by
  cases h with
  | load hp hx => exact .load hp hx
  | expand hp hlo hhi hk hr hw hregs => exact .expand hp hlo hhi hk hr hw hregs
  | round hp hle hk hr hw hregs => exact .round hp hle hk hr hw hregs
  | accum hp hr hregs => exact .accum hp hr hregs

theorem State.PreparedFor.setInbox_giveBack (h : s.PreparedFor mem m) (es : List Event) (r : Returned) :
    ((s.setInbox es).giveBack r).PreparedFor mem m :=
  ⟨h.mem, h.len, h.planned, h.scr⟩

theorem OperationAt.setInbox_giveBack (h : OperationAt mem m n s) (es : List Event) (r : Returned) :
    OperationAt mem m n ((s.setInbox es).giveBack r) := by
  cases h with
  | init hp hmem hlen => exact .init hp hmem hlen
  | pad hp hmem hlen hmh hh => exact .pad hp hmem hlen hmh hh
  | check hp hprep hh => exact .check hp (hprep.setInbox_giveBack es r) hh
  | block i k hn hk hon hstage =>
    exact .block i k hn hk ⟨hon.toPreparedFor.setInbox_giveBack es r, hon.inRange, hon.markBlock, hon.block, hon.h⟩
      (hstage.setInbox_giveBack es r)
  | serial hn hp hmem hmh hh => exact .serial hn hp hmem hmh hh
  | ended hn hp hmem hd hv he hdig => exact .ended hn hp hmem hd hv he hdig

theorem OperationAt.setInbox (h : OperationAt mem m n s) (es : List Event) : OperationAt mem m n (s.setInbox es) :=
  h.setInbox_giveBack es s.returned

theorem OperationAt.giveBack (h : OperationAt mem m n s) (r : Returned) : OperationAt mem m n (s.giveBack r) :=
  h.setInbox_giveBack s.inbox r

theorem State.PreparedFor.plan (h : s.PreparedFor mem m) : s.plan = planOf m.length := by
  obtain ⟨-, -, -, hplan⟩ := h.planned
  rw [hplan, h.len]

theorem State.OnBlockOf.onBlock {i : Nat} (h : s.OnBlockOf mem m i) : s.onBlock :=
  ⟨h.planned, h.markBlock, by rw [h.block, h.plan]; exact nthBlock_fits h.inRange⟩

/-- The micro-steps of a block leave it the block of the message that it is. -/
theorem State.OnBlockOf.of_blockInputs_eq {i : Nat} {t : State} (hs : s.OnBlockOf mem m i)
    (h : t.blockInputs = s.blockInputs) : t.OnBlockOf mem m i := by
  obtain ⟨hmem, hlen, -, hblock, hscr, hh, -⟩ := State.blockInputs_eq_iff.mp h
  obtain ⟨hplanned, hmb, -⟩ := State.onBlock_of_blockInputs_eq h hs.onBlock
  exact ⟨⟨hmem.trans hs.mem, hlen.trans hs.len, hplanned, hscr.trans hs.scr⟩, hs.inRange, hmb, hblock.trans hs.block,
    hh.trans hs.h⟩

/-- Every count of an operation is within its `4 + 146 N` micro-steps. -/
theorem OperationAt.le (h : OperationAt mem m n s) : n ≤ 4 + 146 * blockCount m.length := by
  cases h with
  | block i k hn hk hon => have := hon.inRange; omega
  | init | pad | check | serial | ended => omega

/-- The engine is idle at the last count of an operation only. -/
theorem OperationAt.eq_of_idle (h : OperationAt mem m n s) (hi : s.phase = Phase.idle) :
    n = 4 + 146 * blockCount m.length := by
  cases h with
  | ended hn => exact hn
  | init hp | pad hp | check hp | serial _ hp => rw [hi] at hp; cases hp
  | block i k hn hk hon hstage => cases hstage with
    | load hp | expand hp | round hp | accum hp => rw [hi] at hp; cases hp

/-- At the last count of an operation the digest of the message is published. -/
theorem OperationAt.published (h : OperationAt mem m n s) (hn : n = 4 + 146 * blockCount m.length) :
    s.phase = Phase.idle ∧ s.mem = mem ∧ s.digest = digestWords m ∧ s.statusWord = 0x00000006#32 := by
  cases h with
  | block i k hn hk hon => have := hon.inRange; omega
  | ended _ hp hmem hd hv he hdig => exact ⟨hp, hmem, hdig, State.statusWord_of_published hp hd hv he⟩
  | init | pad | check | serial => omega

section Held
variable (hm : ∀ k, k < m.length → mem.read k = m[k]?)
include hm

/-- A part of the message held in `MSG` is read as it is. -/
theorem readBytes_of_held {a len : Nat} (h : a + len ≤ m.length) : mem.readBytes a len = some ((m.drop a).take len) := by
  refine Memory.readBytes_eq_some.mpr ⟨by simp; omega, fun i hi => ?_⟩
  rw [hm _ (by omega), List.getElem?_take_of_lt hi, List.getElem?_drop]

/-- The selected block reads as its block of the padded message (R117, R158). -/
theorem State.OnBlockOf.readBlock_eq {i : Nat} (h : s.OnBlockOf mem m i) :
    readBlock s = .ok (blockOf (padMessage m) i) := by
  have hblock := h.block
  have hfull := fullEnd_le m.length
  have hmod := fullEnd_mod m.length
  obtain hbulk | hregion := Nat.lt_or_ge (64 * i) (fullEnd m.length)
  · rw [nthBlock_bulk hbulk] at hblock
    have hread := readBytes_of_held hm (a := 64 * i) (len := 64) (by omega)
    simp [readBlock, hblock, h.mem, hread, blockOf_padMessage_bulk hbulk]
  · rw [nthBlock_region hregion] at hblock
    have hin : 64 * i - fullEnd m.length + 64 ≤ 128 := by
      have := fullEnd_add_paddedSize m.length
      have := paddedSize_cases m.length
      have := h.inRange
      omega
    obtain ⟨-, -, hmark, -⟩ := h.planned
    simp only [readBlock, hblock, if_pos hin, hmark, h.scr, blockOf_padMessage_region hregion h.inRange, if_true]

/-- A selected block starts at its `LOAD`. -/
theorem OperationAt.load {i : Nat} (hp : s.phase = Phase.load) (h : s.OnBlockOf mem m i) :
    OperationAt mem m (3 + 146 * i) s :=
  .block i 0 rfl (by decide) h (.load hp (h.readBlock_eq hm))

/-- `PAD` prepares the plan and the padded region of the message (R133). -/
theorem OperationAt.microStep_pad (hp : s.phase = Phase.pad) (hmem : s.mem = mem) (hlen : s.len = m.length)
    (hmh : s.marks.h = true) (hh : s.h = initialH) : ∃ t, MicroStep s t ∧ OperationAt mem m 2 t := by
  have hall := fullEnd_add_tailLen m.length
  have htail : (m.drop (fullEnd m.length)).take (tailLen m.length) = m.drop (fullEnd m.length) :=
    List.take_of_length_le (by simp; omega)
  have hread := readBytes_of_held hm hall.le
  rw [htail] at hread
  refine ⟨s.writePadding (m.drop (fullEnd m.length)),
    microStep_of_phase hp rfl (by simp [exec, execPad, hmem, hlen, hread]), .check rfl ⟨hmem, hlen, ?_, ?_⟩ hh⟩
  · exact ⟨hmh, rfl, rfl, rfl⟩
  · rw [State.writePadding_scr, hlen]

/-- `CHECK` finds the plan of `PAD` consistent and selects block 0 (R114, R137, R138). -/
theorem OperationAt.microStep_check (hp : s.phase = Phase.check) (h : s.PreparedFor mem m) (hh : s.h = initialH) :
    ∃ t, MicroStep s t ∧ OperationAt mem m 3 t := by
  obtain ⟨-, hmp, -, -⟩ := id h.planned
  have hcons : Consistent s.len s.plan.f s.plan.t.toNat s.plan.p.toNat := by
    rw [h.len, h.plan]; exact consistent_planOf m.length
  have hcount : 0 < blockCount m.length := Nat.succ_pos _
  refine ⟨s.selectFirst, microStep_of_phase hp rfl (by simp only [exec, execCheck, hmp, whenWritten_true, if_pos hcons]),
    OperationAt.load hm (i := 0) rfl ⟨⟨h.mem, h.len, h.planned, h.scr⟩, hcount, rfl, ?_, hh⟩⟩
  rw [State.selectFirst_block, h.plan]
  exact firstBlock_eq_nthBlock _

/-- `ACCUM` leads to the next block, or to `SERIAL` after the last one (R115, R161). -/
theorem OperationAt.microStep_accum {i : Nat} (h : s.OnBlockOf mem m i)
    (hstage : BlockStage (blockOf (padMessage m) i) 145 s) :
    ∃ t, MicroStep s t ∧ OperationAt mem m (3 + 146 * (i + 1)) t := by
  have hacc : compress s.h (blockOf (padMessage m) i) = accumulatorAfter (padMessage m) (i + 1) := by
    rw [h.h]; rfl
  obtain ⟨hmh, -⟩ := h.planned
  obtain hlt | hlast := Nat.lt_or_eq_of_le (Nat.succ_le_of_lt h.inRange)
  · obtain ⟨hstep, hh⟩ := hstage.microStep_accum h.onBlock (next := .block (nthBlock m.length (i + 1)))
      (by rw [h.plan, h.block]; exact nextBlock_nthBlock hlt)
    exact ⟨_, hstep, OperationAt.load hm rfl ⟨⟨h.mem, h.len, h.planned, h.scr⟩, hlt, h.markBlock, rfl, hh.trans hacc⟩⟩
  · obtain ⟨hstep, hh⟩ := hstage.microStep_accum h.onBlock (next := .finished)
      (by rw [h.plan, h.block]; exact nextBlock_nthBlock_last hlast)
    refine ⟨_, hstep, .serial (by rw [← hlast]) rfl h.mem hmh ?_⟩
    rw [hh, hacc, digestWords_eq, ← hlast]

/-- Each micro-step of an operation leads to its next count (R110 to R118). -/
theorem OperationAt.next (h : OperationAt mem m n s) (hn : n < 4 + 146 * blockCount m.length) :
    ∃ t, MicroStep s t ∧ OperationAt mem m (n + 1) t := by
  cases h with
  | init hp hmem hlen => exact ⟨_, microStep_of_phase hp rfl rfl, .pad rfl hmem hlen rfl rfl⟩
  | pad hp hmem hlen hmh hh => exact OperationAt.microStep_pad hm hp hmem hlen hmh hh
  | check hp hprep hh => exact OperationAt.microStep_check hm hp hprep hh
  | block i k hk145 hk hon hstage =>
    subst hk145
    obtain hlt | rfl := Nat.lt_or_eq_of_le hk
    · obtain ⟨t, ht, hin, hstage'⟩ := hstage.next hon.onBlock hlt
      exact ⟨t, ht, .block i (k + 1) rfl hlt (hon.of_blockInputs_eq hin) hstage'⟩
    · exact OperationAt.microStep_accum hm hon hstage
  | serial hn' hp hmem hmh hh =>
    subst hn'
    exact ⟨s.publish, microStep_of_phase hp rfl (execSerial_eq hmh), .ended (by omega) rfl hmem rfl rfl rfl hh⟩
  | ended hn' => omega

end Held
end Operation

/-! ### From an accepted `START` -/

/-- An accepted `START` over a message held in `MSG` stands at count 0 of its operation (R91). -/
theorem operationAt_accept {s : State} {m : List Byte} (hlen : s.msgLen = m.length) :
    OperationAt s.mem m 0 s.accept :=
  .init rfl rfl hlen

/-- The engine alone comes from `START` to every count of the operation. -/
theorem run_operation {s : State} {m : List Byte} (hs : s.inbox = []) (hlen : s.msgLen = m.length)
    (hm : ∀ k, k < m.length → s.mem.read k = m[k]?) {n : Nat} (hn : n ≤ 4 + 146 * blockCount m.length) :
    ∃ t, Host.Core.run core n s.accept = .next t ∧ OperationAt s.mem m n t := by
  obtain ⟨t, hrun, -, ht⟩ := run_of_microSteps (P := OperationAt s.mem m) (fun _ _ hk hu => hu.next hm hk)
    (operationAt_accept hlen) (s := s.accept) hs hn
  exact ⟨t, hrun, ht⟩

/-- A length whose bytes are all written is that of a message held in `MSG`. -/
theorem exists_message_of_written {mem : Memory} {len : Nat} (h : ∀ k, k < len → mem.read k ≠ none) :
    ∃ m : List Byte, m.length = len ∧ ∀ k, k < len → mem.read k = m[k]? := by
  obtain ⟨m, hm⟩ := Option.ne_none_iff_exists'.mp (Memory.readBytes_ne_none_of_written (a := 0) h (Nat.zero_add len).le)
  obtain ⟨hlen, hread⟩ := Memory.readBytes_eq_some.mp hm
  exact ⟨m, hlen, fun k hk => by simpa using hread k hk⟩

/-- The four bytes of `OUT` that show word `j` of the digest (R25, R52). -/
theorem map_outByte_word (h : Vector Word 5) {j : Nat} (hj : j < 5) :
    (List.range 4).map (fun k => outByte h (4 * j + k)) = bytesBe h[j] 4 := by
  refine List.map_congr_left fun k hk => ?_
  have hk4 : k < 4 := List.mem_range.mp hk
  have hdiv : (4 * j + k) / 4 = j := by omega
  have hshift : 24 - 8 * ((4 * j + k) % 4) = 8 * (4 - 1 - k) := by omega
  rw [outByte_eq_shift _ _ (by omega), hshift]
  simp only [hdiv]

/-- `OUT` with the digest words of a message is its SHA-1 digest (R117). -/
theorem map_outByte_digestWords (m : List Byte) : (List.range 20).map (outByte (digestWords m)) = sha1 m := by
  rw [sha1, ← map_outByte_word _ (j := 0) (by decide), ← map_outByte_word _ (j := 1) (by decide),
    ← map_outByte_word _ (j := 2) (by decide), ← map_outByte_word _ (j := 3) (by decide),
    ← map_outByte_word _ (j := 4) (by decide)]
  rfl

/-! ### The `PHASE` at each count -/

section Phase
variable {mem : Memory} {m : List Byte} {s : State}

/-- The phase and `t` at each count of a block (R113). -/
theorem BlockStage.phase {x : List Byte} {k : Nat} (h : BlockStage x k s) :
    (k = 0 → s.phase = Phase.load) ∧
    (1 ≤ k → k ≤ 64 → s.phase = Phase.expand ∧ s.t.toNat = 15 + k) ∧
    (65 ≤ k → k ≤ 144 → s.phase = Phase.round ∧ s.t.toNat = k - 65) ∧
    (k = 145 → s.phase = Phase.accum) := by
  cases h with
  | load hp => exact ⟨fun _ => hp, by omega, by omega, by omega⟩
  | expand hp => exact ⟨by omega, fun _ _ => ⟨hp, by omega⟩, by omega, by omega⟩
  | round hp => exact ⟨by omega, by omega, fun _ _ => ⟨hp, by omega⟩, by omega⟩
  | accum hp => exact ⟨by omega, by omega, by omega, fun _ => hp⟩

/-- Between `CHECK` and `SERIAL` the count within the block is that of its stage (R118). -/
theorem OperationAt.blockStage {n : Nat} (h : OperationAt mem m n s) (hlo : 3 ≤ n)
    (hhi : n < 3 + 146 * blockCount m.length) : ∃ x, BlockStage x ((n - 3) % 146) s := by
  cases h with
  | block i k hn hk hon hstage =>
    obtain rfl : k = (n - 3) % 146 := by omega
    exact ⟨_, hstage⟩
  | init | pad | check | serial | ended => omega

theorem OperationAt.phase_zero (h : OperationAt mem m 0 s) : s.phase = Phase.init := by
  cases h with
  | init hp => exact hp
  | block | serial | ended => omega

theorem OperationAt.phase_one (h : OperationAt mem m 1 s) : s.phase = Phase.pad := by
  cases h with
  | pad hp => exact hp
  | block | serial | ended => omega

theorem OperationAt.phase_two (h : OperationAt mem m 2 s) : s.phase = Phase.check := by
  cases h with
  | check hp => exact hp
  | block | serial | ended => omega

theorem OperationAt.phase_serial {n : Nat} (h : OperationAt mem m n s) (hn : n = 3 + 146 * blockCount m.length) :
    s.phase = Phase.serial := by
  cases h with
  | serial _ hp => exact hp
  | block i k _ hk hon => have := hon.inRange; omega
  | init | pad | check | ended => omega

end Phase

/-! ### Every schedule -/

/-- What a step makes of what its fetch has found. -/
def Fetched.answer : Fetched → Result
  | .run i t => exec i t
  | .settled t => .next t
  | .stop f => .fault f
  | .refuse r => .refused r

theorem step_eq_answer (s : State) : step s = (fetch s).answer := rfl

/-- A code that decodes to host instructions only has the effect of one, or none. -/
theorem HostEffect.of_fetchCode {c : Code} {s t : State} (hc : ∀ i, decode s.params c = .ok i → i.isMicroStep = false)
    (h : (fetchCode c s).answer = .next t) : HostEffect s t := by
  cases hf : fetchCode c s with
  | run i u =>
    obtain ⟨hd, rfl⟩ := fetchCode_run hf
    rw [hf] at h
    exact exec_host (hc i hd) h
  | settled u =>
    obtain ⟨rfl, -⟩ := fetchCode_settled hf
    rw [hf] at h
    cases h
    exact .same
  | stop f => rw [hf] at h; cases h
  | refuse r => rw [hf] at h; cases h

/-- An entry of the schedule that is no engine turn and no reset has the effect of a host access. -/
theorem HostEffect.of_fetchEvent {e : Event} {s t : State} (he : e ≠ .engine) (hr : e ≠ .reset)
    (h : (fetchEvent e s).answer = .next t) : HostEffect s t := by
  cases e with
  | cmd w => exact .of_fetchCode (c := .cmd w) (fun i hd => by cases hd; exact decodeCommand_host w) h
  | bus a => exact .of_fetchCode (c := .bus a) (fun i hd => decodeAccess_host hd) h
  | platform addr width dir data =>
    cases hl : s.params.locate addr with
    | none => simp [fetchEvent, fetchPlatform, hl, Fetched.answer] at h
    | some x =>
      rw [fetchEvent, fetchPlatform_of_locate hl] at h
      exact .of_fetchCode (c := .bus ⟨x.1, x.2, width, dir, data⟩) (fun i hd => decodeAccess_host hd) h
  | engine => exact absurd rfl he
  | reset => exact absurd rfl hr

section Schedule
variable {mem : Memory} {m : List Byte} {s : State}

/-- The operation is under way or has ended: the state stands at some count of it, no reset is scheduled, and `b` bounds the
events and the micro-steps that are left. -/
def State.Underway (mem : Memory) (m : List Byte) (b : Nat) (s : State) : Prop :=
  ∃ n, OperationAt mem m n s ∧ Event.reset ∉ s.inbox ∧ s.inbox.length + (4 + 146 * blockCount m.length) ≤ b + n

/-- Every step of a busy engine uses up an entry of the schedule or a micro-step of the operation (R119, R120). -/
theorem State.Underway.step {b : Nat} {t : State} (hm : ∀ k, k < m.length → mem.read k = m[k]?)
    (hs : s.Underway mem m b) (hb : s.phase ≠ Phase.idle) (h : step s = .next t) :
    0 < b ∧ t.Underway mem m (b - 1) := by
  obtain ⟨n, hop, hreset, hleft⟩ := hs
  have hlt : n < 4 + 146 * blockCount m.length :=
    Nat.lt_of_le_of_ne hop.le fun hn => hb (hop.published hn).1
  cases hin : s.inbox with
  | nil =>
    obtain ⟨u, hstep, hu⟩ := hop.next hm hlt
    cases (hstep.step hin).symm.trans h
    have hnil := hstep.inbox.trans hin
    exact ⟨by omega, n + 1, hu, by simp [hnil], by rw [hin] at hleft; rw [hnil]; omega⟩
  | cons e rest =>
    rw [hin] at hreset hleft
    rw [List.length_cons] at hleft
    obtain ⟨he, hrest⟩ := not_or.mp (List.mem_cons.not.mp hreset)
    refine ⟨by omega, ?_⟩
    by_cases hturn : e = .engine
    · subst hturn
      obtain ⟨u, hstep, hu⟩ := (hop.setInbox rest).next hm hlt
      cases (hstep.step_turn hin).symm.trans h
      have hrest' : t.inbox = rest := hstep.inbox
      exact ⟨n + 1, hu, hrest'.symm ▸ hrest, by rw [hrest']; omega⟩
    · rw [step_eq_answer, fetch, hin] at h
      have heff := HostEffect.of_fetchEvent hturn (Ne.symm he) h
      rw [heff.eq_giveBack_of_busy hb]
      exact ⟨n, (hop.setInbox rest).giveBack _, hrest, show rest.length + _ ≤ _ by omega⟩

/-- While the engine has not been idle before, a run stays in its operation (R120). -/
theorem State.Underway.run {b n : Nat} {t : State} (hm : ∀ k, k < m.length → mem.read k = m[k]?)
    (hs : s.Underway mem m b) (h : Host.Core.run core n s = .next t)
    (hbusy : ∀ k u, k < n → Host.Core.run core k s = .next u → u.phase ≠ Phase.idle) : ∃ b', t.Underway mem m b' := by
  induction n generalizing s b with
  | zero => cases h; exact ⟨b, hs⟩
  | succ n ih =>
    obtain ⟨u, hu, hrun⟩ := run_succ_next h
    obtain ⟨-, hs'⟩ := hs.step hm (hbusy 0 s (Nat.succ_pos n) rfl) hu
    exact ih hs' hrun fun k v hk hv => hbusy (k + 1) v (Nat.succ_lt_succ hk) ((run_succ hu).trans hv)

/-- A run that is not stopped finds the engine idle within the bound (R118, R119). -/
theorem State.Underway.run_idle {b : Nat} {t : State} (hm : ∀ k, k < m.length → mem.read k = m[k]?)
    (hs : s.Underway mem m b) (h : Host.Core.run core b s = .next t) :
    ∃ k u, k ≤ b ∧ Host.Core.run core k s = .next u ∧ u.phase = Phase.idle := by
  induction b generalizing s with
  | zero =>
    refine ⟨0, s, Nat.le_refl 0, rfl, ?_⟩
    obtain ⟨n, hop, -, hleft⟩ := hs
    exact (hop.published (by have := hop.le; omega)).1
  | succ b ih =>
    by_cases hi : s.phase = Phase.idle
    · exact ⟨0, s, Nat.zero_le _, rfl, hi⟩
    · obtain ⟨u, hu, hrun⟩ := run_succ_next h
      obtain ⟨-, hs'⟩ := hs.step hm hi hu
      obtain ⟨k, v, hk, hv, hidle⟩ := ih hs' hrun
      exact ⟨k + 1, v, Nat.succ_le_succ hk, (run_succ hu).trans hv, hidle⟩

end Schedule

/-! ### The obligations -/

/-- Settles O54: 145 micro-steps lead to `ACCUM` over the schedule and the rounds of the block, and `ACCUM` adds them. -/
theorem oneBlockIsCompressed : Obligations.OneBlockIsCompressed := by
  intro s x hs hi hp hx
  have hb : s.onBlock := (State.sequenced_iff_of_load hp).mp hs.sequenced
  obtain ⟨u, hrun, hu, hin, hstage⟩ := run_block hi hb (.load hp hx) (k := 145) (Nat.le_refl _)
  have hbu := State.onBlock_of_blockInputs_eq hin hb
  obtain ⟨next, hn⟩ := hbu.exists_nextBlock
  obtain ⟨hstep, hh⟩ := hstage.microStep_accum hbu hn
  obtain ⟨hmem, hlen, hplan, hblock, hscr, huh, -⟩ := State.blockInputs_eq_iff.mp hin
  rw [hplan, hblock] at hn
  rw [huh] at hh
  refine ⟨_, (run_add (n := 1) hrun).trans (run_one (hstep.step hu)), hh, ?_⟩
  cases next with
  | finished => exact ⟨hplan, hscr, hmem, hlen, hu, .inr ⟨rfl, hn⟩⟩
  | block b => exact ⟨hplan, hscr, hmem, hlen, hu, .inl ⟨rfl, hn⟩⟩

/-- Settles O55: the micro-steps lead from count to count, and at the last one the digest of the message is published. -/
theorem operationPublishesTheDigest : Obligations.OperationPublishesTheDigest := by
  intro s m _ hi hs hlen hcap hm
  obtain ⟨t, hrun, ht⟩ := run_operation hs hlen hm (Nat.le_refl _)
  obtain ⟨-, hmem, hdigest, hstatus⟩ := ht.published rfl
  exact ⟨s.accept, t, startCommand_of_le hi (hlen ▸ hcap), hrun, hstatus,
    by rw [hdigest]; exact map_outByte_digestWords m, hmem⟩

/-- Settles O56: each count of an operation has its `PHASE`, and the one inside a block is the stage of that block. -/
theorem operationTakesCountedMicroSteps : Obligations.OperationTakesCountedMicroSteps := by
  intro s blocks n _ hi hs hcap hwritten hblocks hn
  obtain ⟨m, hlen, hm⟩ := exists_message_of_written hwritten
  obtain rfl : blocks = blockCount m.length := by rw [hblocks, hlen]; rfl
  obtain ⟨t, hrun, ht⟩ := run_operation hs hlen.symm (hlen ▸ hm) hn
  refine ⟨s.accept, t, startCommand_of_le hi hcap, hrun, ?_, ?_, ?_, fun hlo hhi => ?_, ht.phase_serial,
    fun hend => (ht.published hend).1⟩
  · rintro rfl; exact ht.phase_zero
  · rintro rfl; exact ht.phase_one
  · rintro rfl; exact ht.phase_two
  · obtain ⟨x, hstage⟩ := ht.blockStage hlo hhi
    exact hstage.phase

/-- Settles O57: no entry of the schedule but a reset disturbs the operation, each step uses up an entry or a micro-step, and the
engine is idle at the last count only. -/
theorem everyScheduleGivesTheDigest : Obligations.EveryScheduleGivesTheDigest := by
  intro s s' m _ hi hreset hlen hcap hm hstart
  cases hstart.symm.trans (startCommand_of_le hi (hlen ▸ hcap))
  have hunder : s.accept.Underway s.mem m (s.inbox.length + (4 + 146 * blockCount m.length)) :=
    ⟨0, operationAt_accept hlen, hreset, Nat.le_refl _⟩
  refine ⟨fun n t hrun hidle hbusy => ?_, fun t hrun => hunder.run_idle hm hrun⟩
  obtain ⟨_, _, hop, -, -⟩ := hunder.run hm hrun hbusy
  obtain ⟨-, -, hdigest, hstatus⟩ := hop.published (hop.eq_of_idle hidle)
  exact ⟨hstatus, by rw [hdigest]; exact map_outByte_digestWords m⟩

/-- Settles O8: the fetch of an idle engine settles on the state it is given. -/
theorem idleEngineTakesNoStep : Obligations.IdleEngineTakesNoStep := fun _ hi =>
  ⟨step_of_idle hi, fun _ => step_turn_of_idle hi⟩

/-- Settles O29: the written accumulator is the one of R112. -/
theorem initLoadsTheInitialAccumulator : Obligations.InitLoadsTheInitialAccumulator := fun _ => rfl

/-- Settles O37: `SERIAL` on a written accumulator publishes it, and `OUT` is a view of the published words. -/
theorem serialPublishesTheDigest : Obligations.SerialPublishesTheDigest := fun s hh =>
  ⟨s.publish, execSerial_eq hh, rfl, State.statusWord_of_published rfl rfl rfl rfl,
    fun k => outByte_eq_shift s.h k.val (by omega)⟩

/-- Settles O46: the micro-steps of a busy engine stop only on an unwritten byte of the message, and an idle engine stays as it
is. -/
theorem everyMicroStepIsEnabled : Obligations.EveryMicroStepIsEnabled := by
  intro s hs hi hm
  by_cases hidle : s.phase = Phase.idle
  · exact ⟨s, step_of_idle hidle hi⟩
  · obtain ⟨i, hd⟩ := hs.exists_microStep hidle
    obtain ⟨t, ht⟩ := hs.exec_micro_of_written hm hd
    exact ⟨t, (step_engine hi hd).trans ht⟩

end Sys2Proof.Machine
end

section
/-! PROOFS. Family 42_padding: what `PAD` builds, what `CHECK` makes of a plan, and the padded message (R114, R117, R130 to R139,
R181). -/

namespace Sys2Proof.Machine

/-! ### `PAD` -/

section Padding
variable {s t : State}

/-- `PAD` on a tail that is written (R133). -/
theorem execPad_of_readBytes_some {tail : List Byte}
    (h : s.mem.readBytes (fullEnd s.len) (tailLen s.len) = some tail) : execPad s = .next (s.writePadding tail) := by
  simp [execPad, h]

/-- `PAD` on a tail with an unwritten byte (R133, R188). -/
theorem execPad_of_readBytes_none (h : s.mem.readBytes (fullEnd s.len) (tailLen s.len) = none) :
    execPad s = .fault .unwrittenMsgRead := by
  simp [execPad, h]

/-- `PAD` completes only on a tail that it could read (R133). -/
theorem execPad_next (h : execPad s = .next t) :
    ∃ tail, s.mem.readBytes (fullEnd s.len) (tailLen s.len) = some tail ∧ t = s.writePadding tail := by
  cases execPad_effect h with
  | pad tail hread => exact ⟨tail, hread, rfl⟩

/-- The last eight bytes of the padded region are the bit length, most significant first (R132, R135). -/
theorem bitLength_getD (len : Nat) {i : Nat} (hlo : paddedSize len - 8 ≤ i) (hhi : i < paddedSize len) :
    (bytesBe (bitLength len) 8).getD (i - (paddedSize len - 8)) 0#8 =
      (BitVec.ofNat 64 (8 * len) >>> (8 * (7 - (i - (paddedSize len - 8))))).setWidth 8 := by
  rw [List.getD_eq_getElem?_getD, bytesBe_getElem? _ (by omega)]
  rfl

/-- Byte `i` of the region `PAD` builds, with the bytes of the bit length written out (R133 to R135). -/
theorem scratchOf_getElem (len : Nat) (tail : List Byte) (i : Fin 128) :
    (scratchOf len tail)[i] =
      if i.val < tailLen len then tail.getD i.val 0x00#8
      else if i.val = tailLen len then 0x80#8
      else if i.val < paddedSize len - 8 then 0x00#8
      else if i.val < paddedSize len then
        (BitVec.ofNat 64 (8 * len) >>> (8 * (7 - (i.val - (paddedSize len - 8))))).setWidth 8
      else 0x00#8 := by
  have hbyte : (scratchOf len tail)[i] = scratchByte len tail i.val := by simp [scratchOf]
  rw [hbyte, scratchByte]
  by_cases hzero : i.val < paddedSize len - 8
  · simp only [if_pos hzero]
  by_cases hlast : i.val < paddedSize len
  · rw [bitLength_getD len (Nat.le_of_not_lt hzero) hlast]
  · simp only [if_neg hlast]

/-! ### `CHECK` -/

/-- `CHECK` on a consistent plan (R137). -/
theorem execCheck_of_consistent (hm : s.marks.plan = true)
    (hc : Consistent s.len s.plan.f s.plan.t.toNat s.plan.p.toNat) : execCheck s = .next s.selectFirst := by
  rw [execCheck, hm, whenWritten_true, if_pos hc]

/-- `CHECK` on an inconsistent plan (R137, R181). -/
theorem execCheck_of_inconsistent (hm : s.marks.plan = true)
    (hc : ¬ Consistent s.len s.plan.f s.plan.t.toNat s.plan.p.toNat) :
    execCheck s = .next (s.raise .paddingConsistency) := by
  rw [execCheck, hm, whenWritten_true, if_neg hc]

/-- A planned engine stands before a consistent plan (R138). -/
theorem State.planned.consistent (h : s.planned) : Consistent s.len s.plan.f s.plan.t.toNat s.plan.p.toNat := by
  obtain ⟨-, -, -, hplan⟩ := h
  rw [hplan]
  exact consistent_planOf s.len

/-! ### Who raises `PADDING_CONSISTENCY` -/

/-- No host instruction raises `PADDING_CONSISTENCY` (R181 to R183). -/
theorem HostEffect.err_ne_one (h : HostEffect s t) (hs : s.err ≠ 1#4) : t.err ≠ 1#4 := by
  cases h with
  | same | read | lenLo | lenHi | byte => exact hs
  | lengthRange | illegal | accepted => simp [errorCode]

theorem State.accumulate_err (s : State) (next : After) : (s.accumulate next).err = s.err := by
  cases next <;> rfl

/-- Among the micro-steps only `CHECK` raises `PADDING_CONSISTENCY`, on an inconsistent plan (R181). -/
theorem MicroEffect.err_ne_one {i : Instr} (h : MicroEffect s i t) (hs : s.err ≠ 1#4)
    (hc : i = .check → Consistent s.len s.plan.f s.plan.t.toNat s.plan.p.toNat) : t.err ≠ 1#4 := by
  cases h with
  | inconsistent _ hn => exact absurd (hc rfl) hn
  | accum next => rw [s.accumulate_err next]; exact hs
  | serial => simp
  | init | pad | checked | load | expand | round0019 | round2039 | round4059 | round6079 => exact hs

/-- Under the invariant no step raises `PADDING_CONSISTENCY`: at `CHECK` the plan is the one of `PAD` (R138). -/
theorem State.Inv.step_err_ne_one (hs : s.Inv) (he : s.err ≠ 1#4) (h : step s = .next t) : t.err ≠ 1#4 := by
  obtain ⟨rest, u, rfl, hc⟩ := step_cases h
  obtain rfl | rfl | hhost | ⟨i, hd, hmicro⟩ := hc
  · exact he
  · rw [State.resetEngine_err]; decide
  · exact hhost.err_ne_one he
  · refine hmicro.err_ne_one he ?_
    rintro rfl
    have hplanned := (State.sequenced_iff_of_check (decodePhase_phase hd)).mp (hs.setInbox rest).sequenced
    exact hplanned.consistent

/-! ### The padded message -/

/-- The tail of a message held in `MSG` is read as the bytes from `F` on (R130). -/
theorem readBytes_tail_of_held {mem : Memory} {m : List Byte} (hm : ∀ k, k < m.length → mem.read k = m[k]?) :
    mem.readBytes (fullEnd m.length) (tailLen m.length) = some (m.drop (fullEnd m.length)) := by
  have htail : (m.drop (fullEnd m.length)).length = tailLen m.length := List.length_drop
  rw [readBytes_of_held hm (fullEnd_add_tailLen m.length).le, List.take_of_length_le htail.le]

/-- The blocks of a message are the fewest that hold it with the marker and the length field (R118, R139). -/
theorem blockCount_least (l : Nat) : l + 9 ≤ 64 * blockCount l ∧ 64 * blockCount l < l + 9 + 64 := by
  unfold blockCount
  omega

end Padding

/-! ### The obligations -/

/-- Settles O30: `PAD` reads the tail, or finds a byte of it unwritten, and the region it builds is known byte by byte. -/
theorem padBuildsThePaddedRegion : Obligations.PadBuildsThePaddedRegion := by
  rintro s f t p rfl rfl rfl
  refine ⟨fun tail hlen hread => ?_, fun hnone => execPad_of_readBytes_none (Memory.readBytes_eq_none.mpr hnone)⟩
  exact ⟨scratchOf s.len tail, execPad_of_readBytes_some (Memory.readBytes_eq_some.mpr ⟨hlen, hread⟩),
    scratchOf_getElem s.len tail⟩

/-- Settles O31: the plan alone decides between the first block and the error. -/
theorem checkValidatesThePlan : Obligations.CheckValidatesThePlan := by
  rintro s l f t p hm rfl rfl rfl rfl
  exact ⟨execCheck_of_consistent hm, fun hc =>
    ⟨s.raise .paddingConsistency, execCheck_of_inconsistent hm hc, State.statusWord_raise s .paddingConsistency, rfl⟩⟩

/-- Settles O32: the plan of `PAD` is consistent for every length, and under the invariant `CHECK` meets no other plan. -/
theorem checkNeverFailsAfterPad : Obligations.CheckNeverFailsAfterPad := by
  refine ⟨fun s t h => ?_, fun s t hs he h => hs.step_err_ne_one he h⟩
  obtain ⟨tail, -, rfl⟩ := execPad_next h
  exact ⟨(s.writePadding tail).selectFirst, execCheck_of_consistent rfl (consistent_planOf s.len), rfl, rfl, rfl⟩

/-- Settles O53: the region `PAD` builds on the tail of the message completes it to whole blocks, as few as hold it. -/
theorem paddedRegionCompletesTheMessage : Obligations.PaddedRegionCompletesTheMessage := by
  intro s t m hlen _ hm h
  obtain ⟨tail, hread, rfl⟩ := execPad_next h
  rw [hlen, readBytes_tail_of_held hm] at hread
  obtain rfl := Option.some.inj hread
  obtain ⟨hlo, hhi⟩ := blockCount_least m.length
  rw [State.writePadding_plan, State.writePadding_scr, hlen, planOf_p, planOf_f, fullEnd_add_paddedSize, padMessage_length]
  exact ⟨(padMessage_eq m).symm, rfl, Nat.mul_mod_right .., hlo, hhi⟩

end Sys2Proof.Machine
end

section
/-! PROOFS. Family 43_compression: the words of the transform (R151, R153, R155), and what `LOAD`, `EXPAND` and the four `ROUND`
rows write (R157 to R160, R163). -/

namespace Sys2Proof.Machine

/-! ### Words -/

/-- The rotation by shifts is the library's, within its range (R151). -/
theorem rotl_eq_rotateLeft (x : Word) {n : Nat} (hn : n < 32) : rotl x n = x.rotateLeft n := by
  rw [BitVec.rotateLeft_def, Nat.mod_eq_of_lt hn, rotl]

/-- Bit `i` of a rotated word is bit `(i - n) mod 32` (R151). -/
theorem getLsbD_rotl (x : Word) {n i : Nat} (hn : n < 32) (hi : i < 32) :
    (rotl x n).getLsbD i = x.getLsbD ((i + 32 - n) % 32) := by
  rw [rotl_eq_rotateLeft x hn, BitVec.getLsbD_rotateLeft_of_le hn]
  by_cases hwrap : i < n
  · have hidx : (i + 32 - n) % 32 = 32 - n + i := by omega
    simp [hwrap, hidx]
  · have hidx : (i + 32 - n) % 32 = i - n := by omega
    simp [hwrap, hidx, hi]

/-- Bit by bit the round function of rounds 0 to 19 takes `c` where `b` is 1 and `d` where it is 0 (R153). -/
theorem getLsbD_fChoose (b c d : Word) (i : Nat) :
    (fChoose b c d).getLsbD i = if b.getLsbD i then c.getLsbD i else d.getLsbD i := by
  simp only [fChoose, BitVec.getLsbD_xor, BitVec.getLsbD_and]
  cases b.getLsbD i
  · simp
  · simp [Bool.xor_left_comm]

/-- The two operands of the addition of R155 share no bit. -/
theorem majority_operands_disjoint (x y z : Word) : (x &&& y) &&& (z &&& (x ^^^ y)) = 0#32 := by
  ext i hi
  simp only [BitVec.getElem_and, BitVec.getElem_xor, BitVec.getElem_zero]
  cases x[i] <;> cases y[i] <;> simp

/-- The addition of R155 never carries, so it is an or. -/
theorem fMajority_eq_or (x y z : Word) : fMajority x y z = (x &&& y) ||| (z &&& (x ^^^ y)) :=
  BitVec.add_eq_or_of_and_eq_zero _ _ (majority_operands_disjoint x y z)

/-- The round function of rounds 40 to 59 is the bitwise majority (R155). -/
theorem fMajority_eq_majority (x y z : Word) : fMajority x y z = (x &&& y) ||| (x &&& z) ||| (y &&& z) := by
  rw [fMajority_eq_or]
  ext i hi
  simp only [BitVec.getElem_or, BitVec.getElem_and, BitVec.getElem_xor]
  cases x[i] <;> cases y[i] <;> simp

/-- A word of the schedule, at an index of the schedule. -/
theorem wordAt_of_lt (w : Vector Word 80) {k : Nat} (hk : k < 80) : wordAt w k = w[k] := by
  simp [wordAt, hk]

/-- The word `EXPAND` computes, over the words of the schedule (R159). -/
theorem expandedWord_of_lt (w : Vector Word 80) {k : Nat} (hk : k < 80) :
    expandedWord w k = (w[k - 3] ^^^ w[k - 8] ^^^ w[k - 14] ^^^ w[k - 16]).rotateLeft 1 := by
  rw [expandedWord, wordAt_of_lt w (by omega), wordAt_of_lt w (by omega), wordAt_of_lt w (by omega),
    wordAt_of_lt w (by omega), rotl_eq_rotateLeft _ (by decide)]

/-- The words that `LOAD` takes from the block (R158). -/
theorem loadWords_getElem_of_lt (w : Vector Word 80) (bytes : List Byte) {j : Nat} (hj : j < 16) :
    (loadWords w bytes)[j] = blockWord bytes j := by
  simp [loadWords, hj]

/-- The words that `LOAD` leaves as they were (R158). -/
theorem loadWords_getElem_of_ge (w : Vector Word 80) (bytes : List Byte) {j : Nat} (hj : 16 ≤ j) (h80 : j < 80) :
    (loadWords w bytes)[j] = w[j] := by
  simp [loadWords, hj.not_gt]

section Block
variable {s : State}

theorem State.wordWritten_of_lt {k : Nat} (hk : k < 80) : s.wordWritten k = s.marks.w[k] := by
  simp [State.wordWritten, hk]

/-! ### `LOAD` -/

/-- The block of `MSG` that holds these 64 bytes reads as them (R158). -/
theorem readBlock_of_msg {bytes : Vector Byte 64} (hs : s.block.src = .msg)
    (hb : ∀ k : Fin 64, s.mem.read (s.block.off + k.val) = some bytes[k]) : readBlock s = .ok bytes.toList := by
  have hread : s.mem.readBytes s.block.off 64 = some bytes.toList :=
    Memory.readBytes_eq_some.mpr ⟨by simp, fun i hi => by simpa [hi] using hb ⟨i, hi⟩⟩
  simp only [readBlock, hs, hread]

/-- The block of `SCR` that holds these 64 bytes reads as them (R158). -/
theorem readBlock_of_scr {bytes : Vector Byte 64} (hs : s.block.src = .scr) (hm : s.marks.scr = true)
    (hin : s.block.off + 64 ≤ 128) (hb : ∀ k : Fin 64, s.scr[s.block.off + k.val]? = some bytes[k]) :
    readBlock s = .ok bytes.toList := by
  have hread : (s.scr.toList.drop s.block.off).take 64 = bytes.toList := by
    refine List.ext_getElem? fun i => ?_
    by_cases hi : i < 64
    · simpa [List.getElem?_take_of_lt hi, hi] using hb ⟨i, hi⟩
    · simp [hi]
  simp only [readBlock, hs, if_pos hin, hm, if_true, hread]

/-- A block of `MSG` with an unwritten byte is not read (R158, R188). -/
theorem readBlock_of_unwritten (hs : s.block.src = .msg) (hn : ∃ k, k < 64 ∧ s.mem.read (s.block.off + k) = none) :
    readBlock s = .error .unwrittenMsgRead := by
  simp only [readBlock, hs, Memory.readBytes_eq_none.mpr hn]

/-- `LOAD` of a block that reads (R158). -/
theorem execLoad_of_ok {bytes : List Byte} (hb : s.marks.block = true) (hh : s.marks.h = true)
    (hr : readBlock s = .ok bytes) : execLoad s = .next (s.seedBlock bytes) := by
  simp [execLoad, hb, hh, hr]

/-- `LOAD` of a block that does not read (R158, R188). -/
theorem execLoad_of_error {f : Fault} (hb : s.marks.block = true) (hh : s.marks.h = true)
    (hr : readBlock s = .error f) : execLoad s = .fault f := by
  simp [execLoad, hb, hh, hr]

/-! ### `EXPAND` and `ROUND` -/

/-- `EXPAND` completes when the four words it reads are written (R159). -/
theorem execExpand_of_written (hlo : 16 ≤ s.t.toNat) (hhi : s.t.toNat < 80)
    (h3 : s.marks.w[s.t.toNat - 3] = true) (h8 : s.marks.w[s.t.toNat - 8] = true)
    (h14 : s.marks.w[s.t.toNat - 14] = true) (h16 : s.marks.w[s.t.toNat - 16] = true) :
    execExpand s = .next (s.expandAt s.t.toNat hhi) := by
  rw [execExpand, dif_pos ⟨hlo, hhi⟩, State.wordWritten_of_lt (by omega), State.wordWritten_of_lt (by omega),
    State.wordWritten_of_lt (by omega), State.wordWritten_of_lt (by omega), h3, h8, h14, h16]
  rfl

section Round
variable {lo hi : Nat} {f : Word → Word → Word → Word} {k a b c d e : Word}
variable (ht : s.t.toNat < 80) (hregs : s.regs = ⟨a, b, c, d, e⟩) (hr : s.marks.regs = true)
variable (hw : s.marks.w[s.t.toNat] = true) (hlo : lo ≤ s.t.toNat) (hhi : s.t.toNat ≤ hi)
include hregs hr hw hlo hhi

/-- A round row performs the simultaneous assignment of R160 on the operands it reads. The function and the constant stand as
variables, so that the kernel unfolds no constant. -/
theorem roundRow_assigns :
    roundRow lo hi f k s = .next
      { s with
        regs := ⟨a.rotateLeft 5 + f b c d + e + k + s.w[s.t.toNat], a, b.rotateLeft 30, c, d⟩, t := s.t + 1#7,
        phase := if s.t.toNat = 79 then Phase.accum else s.phase } := by
  rw [roundRow_eq hlo hhi hr ((State.wordWritten_of_lt ht).trans hw), State.applyRound, roundOf, hregs, wordAt_of_lt s.w ht,
    rotl_eq_rotateLeft a (by decide), rotl_eq_rotateLeft b (by decide)]

/-- Before round 79 a round row leaves the phase as it is (R160). -/
theorem roundRow_assigns_of_lt (hlast : hi < 79) :
    roundRow lo hi f k s = .next
      { s with
        regs := ⟨a.rotateLeft 5 + f b c d + e + k + s.w[s.t.toNat], a, b.rotateLeft 30, c, d⟩, t := s.t + 1#7 } := by
  rw [roundRow_assigns ht hregs hr hw hlo hhi, if_neg (by omega)]

end Round

end Block

/-! ### The obligations -/

/-- Settles O33: both sources give the same 64 bytes to `LOAD`, whose words are those of the block and else the old ones. -/
theorem loadReadsOneBlock : Obligations.LoadReadsOneBlock := by
  refine fun s hb hh => ⟨fun bytes hbytes => ?_, fun hs hn => execLoad_of_error hb hh (readBlock_of_unwritten hs hn)⟩
  have hread : readBlock s = .ok bytes.toList := by
    obtain ⟨hs, hmsg⟩ | ⟨hs, hm, hin, hscr⟩ := hbytes
    · exact readBlock_of_msg hs hmsg
    · exact readBlock_of_scr hs hm hin hscr
  refine ⟨loadWords s.w bytes.toList, (s.seedBlock bytes.toList).marks.w, execLoad_of_ok hb hh hread, fun j => ⟨?_, ?_⟩,
    fun j hj => ⟨loadWords_getElem_of_ge s.w _ hj j.isLt, ?_⟩⟩
  · simp
  · rw [loadWords_getElem_of_lt s.w _ j.isLt, blockWord_toList, be32_eq_append]
  · simp [hj.not_gt]

/-- Settles O34: the word written is the expanded one of its index. -/
theorem expandComputesOneWord : Obligations.ExpandComputesOneWord := by
  rintro s ⟨k, hk⟩ rfl hlo h3 h8 h14 h16
  refine (execExpand_of_written hlo hk h3 h8 h14 h16).trans ?_
  rw [State.expandAt, expandedWord_of_lt s.w hk]

/-- Settles O35: each row is the round row of its range, its function and its constant. -/
theorem roundPerformsTheAssignment : Obligations.RoundPerformsTheAssignment := by
  rintro s ⟨k, hk⟩ a b c d e rfl hregs hr hw
  exact ⟨fun hhi => roundRow_assigns_of_lt hk hregs hr hw (Nat.zero_le _) hhi (by decide),
    fun hlo hhi => roundRow_assigns_of_lt hk hregs hr hw hlo hhi (by decide),
    fun hlo hhi => roundRow_assigns_of_lt hk hregs hr hw hlo hhi (by decide),
    fun hlo hhi => roundRow_assigns hk hregs hr hw hlo hhi⟩

/-- Settles O39: the rotation is the one by shifts, and its bits are the library's. -/
theorem rotationMovesEveryBit : Obligations.RotationMovesEveryBit := fun x _ _ _ hn hi =>
  ⟨rfl, getLsbD_rotl x (Nat.lt_succ_of_le hn) hi⟩

/-- Settles O40: the definition, bit by bit. -/
theorem chooseFunctionSelects : Obligations.ChooseFunctionSelects := fun b c d i =>
  ⟨rfl, getLsbD_fChoose b c d i⟩

/-- Settles O41: the operands of the addition share no bit, so it is an or, and that or is the majority. -/
theorem majorityFunctionNeverCarries : Obligations.MajorityFunctionNeverCarries := fun b c d =>
  ⟨rfl, fMajority_eq_or b c d, fMajority_eq_majority b c d⟩

end Sys2Proof.Machine
end

section
/-! PROOFS. Family 60_exceptions: the micro-steps that read an internal item unwritten since reset (R188). -/

namespace Sys2Proof.Machine

section Unwritten
variable {s : State}

/-- A micro-step with an unwritten item among those it reads faults, whatever its own rule says (R188). -/
theorem whenWritten_of_unwritten {b : Bool} (h : b = false) (r : Result) :
    whenWritten b r = .fault .unwrittenInternalRead := by
  rw [h, whenWritten_false]

/-- `LOAD` looks at the marks of `H` and of the selected block before it reads the block (R188; log entry 14). -/
theorem execLoad_of_unwritten (h : s.marks.h = false ∨ s.marks.block = false) :
    execLoad s = .fault .unwrittenInternalRead := by
  have hmarks : (s.marks.block && s.marks.h) = false := by rwa [Bool.and_eq_false_iff, or_comm]
  exact whenWritten_of_unwritten hmarks _

/-- A block inside an unwritten `SCR` is not read (R188). -/
theorem readBlock_of_scr_unwritten (hs : s.block.src = .scr) (hin : s.block.off + 64 ≤ 128)
    (hm : s.marks.scr = false) : readBlock s = .error .unwrittenInternalRead := by
  simp [readBlock, hs, hin, hm]

/-- `EXPAND` faults when one of the four words it reads is unwritten (R188). -/
theorem execExpand_of_unwritten (hlo : 16 ≤ s.t.toNat) (hhi : s.t.toNat < 80)
    (h : s.marks.w[s.t.toNat - 3] = false ∨ s.marks.w[s.t.toNat - 8] = false ∨ s.marks.w[s.t.toNat - 14] = false ∨
      s.marks.w[s.t.toNat - 16] = false) :
    execExpand s = .fault .unwrittenInternalRead := by
  rw [execExpand, dif_pos ⟨hlo, hhi⟩]
  refine whenWritten_of_unwritten ?_ _
  rw [State.wordWritten_of_lt (by omega), State.wordWritten_of_lt (by omega), State.wordWritten_of_lt (by omega),
    State.wordWritten_of_lt (by omega)]
  simpa only [Bool.and_eq_false_iff, or_assoc] using h

/-- Inside its row a round faults when the working words or its word of the schedule are unwritten (R188). -/
theorem roundRow_of_unwritten {lo hi : Nat} {f : Word → Word → Word → Word} {k : Word} (ht : s.t.toNat < 80)
    (h : s.marks.regs = false ∨ s.marks.w[s.t.toNat] = false) (hlo : lo ≤ s.t.toNat) (hhi : s.t.toNat ≤ hi) :
    roundRow lo hi f k s = .fault .unwrittenInternalRead := by
  rw [roundRow, if_pos ⟨hlo, hhi⟩, State.wordWritten_of_lt ht]
  exact whenWritten_of_unwritten (Bool.and_eq_false_iff.mpr h) _

/-- `ACCUM` looks at the marks of all it reads before it selects the next block (R188). -/
theorem execAccum_of_unwritten
    (h : s.marks.h = false ∨ s.marks.regs = false ∨ s.marks.block = false ∨ s.marks.plan = false) :
    execAccum s = .fault .unwrittenInternalRead := by
  have hmarks : (s.marks.h && s.marks.regs && s.marks.block && s.marks.plan) = false := by
    simpa only [Bool.and_eq_false_iff, or_assoc] using h
  exact whenWritten_of_unwritten hmarks _

end Unwritten

/-! ### The obligation -/

/-- Settles O38: each micro-step looks at the marks of what it reads before its own rule; only `LOAD` from `SCR` meets an unwritten
item later, while it reads the block. -/
theorem unwrittenInternalReadFaults : Obligations.UnwrittenInternalReadFaults := by
  intro s
  refine ⟨fun hh => whenWritten_of_unwritten hh _, fun hp => whenWritten_of_unwritten hp _, execLoad_of_unwritten,
    fun hb hh hsrc hin hscr => execLoad_of_error hb hh (readBlock_of_scr_unwritten hsrc hin hscr), ?expand, ?round,
    execAccum_of_unwritten⟩
  case expand =>
    rintro ⟨k, hk⟩ rfl hlo hw
    exact execExpand_of_unwritten hlo hk hw
  case round =>
    rintro ⟨k, hk⟩ rfl hw
    exact ⟨roundRow_of_unwritten hk hw (Nat.zero_le _), roundRow_of_unwritten hk hw, roundRow_of_unwritten hk hw,
      fun hlo => roundRow_of_unwritten hk hw hlo (Nat.le_of_lt_succ hk)⟩

end Sys2Proof.Machine
end

section
/-! PROOFS. Family 70_reset_and_hazards: what a scheduled reset leaves, and the invariant after it (R200, R22, R24). -/

namespace Sys2Proof.Machine

section Reset
variable {s : State}

/-- A scheduled reset is taken off the schedule and resets the engine, whatever the engine is doing (R200). -/
theorem step_reset {rest : List Event} (hs : s.inbox = .reset :: rest) :
    step s = .next (s.setInbox rest).resetEngine := by
  simp [step, fetch, fetchEvent, hs]

/-- A reset engine reports neither busy nor done, valid or an error (R22, R200). -/
theorem State.resetEngine_statusWord : s.resetEngine.statusWord = 0x00000000#32 :=
  calc s.resetEngine.statusWord
    _ = State.reset.statusWord := rfl
    _ = 0x00000000#32 := rfl

/-- Reset clears every digest register (R24, R200). -/
theorem State.resetEngine_digest_getElem (k : Fin 5) : s.resetEngine.digest[k] = 0x00000000#32 :=
  Vector.getElem_replicate k.isLt

/-- Reset leaves every word of the schedule `W` unwritten (R200). -/
theorem State.resetEngine_marks_w_getElem (j : Fin 80) : s.resetEngine.marks.w[j] = false :=
  Vector.getElem_replicate j.isLt

end Reset

/-! ### The obligations -/

/-- Settles O11: the step is the reset of the engine without the entry taken; each scalar item and mark is the reset state's own,
and the digest, the marks of `W` and the bytes of `MSG` are read at any index. -/
theorem resetClearsTheEngine : Obligations.ResetClearsTheEngine := fun _ _ hs =>
  ⟨_, step_reset hs, rfl, rfl, rfl, rfl, State.resetEngine_statusWord, rfl, State.resetEngine_digest_getElem, rfl, rfl,
    rfl, rfl, rfl, rfl, rfl, State.resetEngine_marks_w_getElem, Memory.read_nil⟩

/-- Settles O43: the state after reset is what resetting it leaves, and its parameters are legal whatever `MSG_CAP` is. -/
theorem invariantHoldsAtReset : Obligations.InvariantHoldsAtReset :=
  State.resetEngine_inv State.reset_params_valid

end Sys2Proof.Machine
end
